-- ==== Sys2Proof/Word.lean ====
section
/-! DEFINITION. The word types of the machine: 9-bit bytes, 27-bit registers and addresses, 54-bit register pairs (00_scope.md R6). -/

namespace Sys2Proof

/-- A byte of memory: 9 bits (00_scope.md R6). -/
abbrev Byte := BitVec 9

/-- The value of one register: 27 bits (00_scope.md R6). -/
abbrev Word := BitVec 27

/-- A byte address: 27 bits, so sums of addresses wrap modulo 2^27 (20_memory.md R60). -/
abbrev Addr := BitVec 27

/-- A Multi Reg value: 54 bits, held by two consecutive registers (10_state.md R23). -/
abbrev Pair := BitVec 54

/-- A register number, 0 to 31 (10_state.md R20). Sums wrap modulo 32. -/
abbrev RegNo := Fin 32

/-- A 2-bit page protection value (20_memory.md R70). -/
abbrev Prot := BitVec 2

/-- A set of the nine interrupt numbers, bit i for number i (60_exceptions.md R500). -/
abbrev IntMask := BitVec 9

/-- An interrupt number, 0 to 8 (60_exceptions.md R500). -/
abbrev IntNo := Fin 9

end Sys2Proof
end

