-- ==== Sys2Proof/Config.lean ====
section
/-! DEFINITION. The named parameters of 00_scope.md R7, as plain data with the defaults of that rule, and the free values the
spec leaves open. A parameter that is a function stands as a choice between the default and an opaque function of `Config`. -/

namespace Sys2Proof

/-! ## Layout: registers, flags, instruction bytes -/

/-- `SpecialRegs`: the numbers of ST, RA, FLAGS and the program counter (10_state.md R21; log 6). -/
structure SpecialRegs where
  st : RegNo
  ra : RegNo
  fl : RegNo
  pc : RegNo
  distinct : [st, ra, fl, pc].Nodup
deriving DecidableEq, Repr

/-- R28, R29, R30, R31. -/
def SpecialRegs.default : SpecialRegs where
  st := 28
  ra := 29
  fl := 30
  pc := 31
  distinct := by decide

/-- `FlagBits`: the places of Z, C, O and S in the low four bits of FLAGS (10_state.md R26; log 7). -/
structure FlagBits where
  z : Fin 4
  c : Fin 4
  o : Fin 4
  s : Fin 4
  distinct : [z, c, o, s].Nodup
deriving DecidableEq, Repr

/-- Bits 0, 1, 2, 3. -/
def FlagBits.default : FlagBits where
  z := 0
  c := 1
  o := 2
  s := 3
  distinct := by decide

/-- `FetchOrder`: which 9-bit group of an instruction lies at which byte offset (20_memory.md R67; log 33). The first two groups
always lie in the first two bytes, in one order for every length, because the decoder tells the length from them. -/
structure FetchOrder where
  /-- The first byte holds g1, the second g0. -/
  swapFirst : Bool
  /-- In 36 bits the third byte holds g3, the fourth g2. -/
  swapFour : Bool
  /-- In 54 bits the bytes at offsets 2 to 5 hold the groups g2 to g5 with these numbers, 0 for g2. -/
  six2 : Fin 4
  six3 : Fin 4
  six4 : Fin 4
  six5 : Fin 4
  distinct : [six2, six3, six4, six5].Nodup
deriving DecidableEq, Repr

/-- g1 g0; g1 g0 g2; g1 g0 g2 g3; g1 g0 g2 g4 g3 g5. -/
def FetchOrder.default : FetchOrder where
  swapFirst := true
  swapFour := false
  six2 := 0
  six3 := 2
  six4 := 1
  six5 := 3
  distinct := by decide

/-! ## Flags and results -/

/-- `NoUFFlagPolicy`: what an instruction that lists flags and has no UF bit does to Z, C, O, S (10_state.md R31; log 12). -/
inductive NoUFFlagPolicy where
  | always
  | never
  | draw
deriving DecidableEq, Repr

/-- `SubOverflow`: the overflow formula of subtract and compare (45_compare.md R320; log 13). -/
inductive SubOverflow where
  | source
  | standard
deriving DecidableEq, Repr

/-- `FlagCO`: C and O after an operation whose page gives no formula for them are drawn bits, or what the function
`Config.flagCO` gives (00_scope.md R14; log 9). -/
inductive FlagCO where
  | draw
  | function
deriving DecidableEq, Repr

/-- The operations whose C and O `FlagCO` gives. -/
inductive FlagOp where
  | mul | mulSigned | div | divSigned | mod | modSigned
  | and | or | xor | bitFlip | negate | not
  | shiftLeft | shiftRight | shiftArith | rotateLeft | rotateRight
  | moveHigh | moveLow | moveLowSigned | signExtendSingle | signExtendWord | zeroExtendSingle | zeroExtendWord | random
  | floatAdd | floatSub | floatMul | floatDiv | floatMod | intToFloat | floatToInt
deriving DecidableEq, Repr

/-- `DivOverflow`: the results of the signed division of the most negative value by -1 (41_multiply_divide_modulus.md R220;
log 28). -/
structure DivOverflow where
  quotient27 : Word
  remainder27 : Word
  quotient54 : Pair
  remainder54 : Pair
deriving DecidableEq, Repr

/-- The quotient wraps to the most negative value, the remainder is 0. -/
def DivOverflow.default : DivOverflow where
  quotient27 := 0x4000000#27
  remainder27 := 0#27
  quotient54 := 0x20000000000000#54
  remainder54 := 0#54

/-- `ShiftOver`: shifts by N or more and rotates by more than N shift every bit out and rotate modulo N, or give what the
function `Config.shiftOver` gives (43_shift_rotate.md R270; log 29). -/
inductive ShiftOver where
  | mathematical
  | function
deriving DecidableEq, Repr

/-- The operations that `ShiftOver` speaks of. -/
inductive ShiftOp where
  | shiftLeft
  | shiftRight
  | shiftArith
  | rotateLeft
  | rotateRight
deriving DecidableEq, Repr

/-! ## Conditions -/

/-- A predicate on the four status flags, as data. -/
inductive FlagTest where
  | always
  | z
  | c
  | o
  | s
  | not (t : FlagTest)
  | and (t u : FlagTest)
  | or (t u : FlagTest)
  | xor (t u : FlagTest)
deriving DecidableEq, Repr

/-- `CondTable`: the predicate of each Condition value, none where the value is invalid (46_branch_call.md R330; log 14). -/
abbrev CondTable := Vector (Option FlagTest) 16

/-- The table of 46_branch_call.md R330, row by row: n, e, l, le, g, ge, no, o, ns, s, sl, sle, sg, sge, invalid, always. -/
def CondTable.default : CondTable :=
  #v[some (.not .z), some .z, some (.and .c (.not .z)), some (.or .c .z), some (.and (.not .c) (.not .z)),
    some (.or (.not .c) .z), some (.not .o), some .o, some (.not .s), some .s, some (.xor .s .o),
    some (.or (.xor .s .o) .z), some (.and (.not (.xor .s .o)) (.not .z)), some (.not (.xor .s .o)), none, some .always]

/-! ## Memory -/

/-- `Perm`: which protection values allow a read, a write, a fetch: bit v for the value v (20_memory.md R71; log 15). -/
structure Perm where
  read : BitVec 4
  write : BitVec 4
  fetch : BitVec 4
deriving DecidableEq, Repr

/-- 0 nothing; 1 read; 2 read and write; 3 read and fetch. -/
def Perm.default : Perm where
  read := 0b1110#4
  write := 0b0100#4
  fetch := 0b1000#4

/-- `RMPPack`: when n pages are read, the bits of the result that show the high and the low protection bit of page i, at row
n - 1 and column i (49_system.md R408; log 30). -/
abbrev RMPPack := Vector (Vector (Fin 27 × Fin 27) 13) 13

/-- Page i in bits 2i + 1 and 2i, however many are read. -/
def RMPPack.default : RMPPack :=
  Vector.replicate 13 (Vector.ofFn fun i => (⟨2 * i.val + 1, by omega⟩, ⟨2 * i.val, by omega⟩))

/-- The ranges of the address map, 20_memory.md R68. -/
inductive Region where
  | memory
  | pointerTable
  | clock
  | flagIO
  | dataReceived
  | dataReceivedSize
  | dataSent
  | dataSentSize
  | sharedMemory
  | nvram
  | processorId
  | unmapped
deriving DecidableEq, Repr

/-- A range of addresses, both ends in it. -/
structure MapRange where
  first : Nat
  last : Nat
  region : Region
deriving DecidableEq, Repr

/-- `MemMap`: the first range that holds an address says what it is, else it is unmapped (20_memory.md R68; log 16). -/
abbrev MemMap := List MapRange

/-- The table of 20_memory.md R68. -/
def MemMap.default : MemMap :=
  [⟨0x0000000, 0x3FFFFFF, .memory⟩, ⟨0x4000000, 0x400001E, .clock⟩, ⟨0x4010000, 0x4011FFF, .flagIO⟩,
    ⟨0x5000000, 0x5001FFF, .dataReceived⟩, ⟨0x5002000, 0x5002002, .dataReceivedSize⟩, ⟨0x5010000, 0x5011FFF, .dataSent⟩,
    ⟨0x5012000, 0x5012002, .dataSentSize⟩, ⟨0x6000000, 0x67FFFFF, .sharedMemory⟩, ⟨0x6800000, 0x6FFFFFF, .nvram⟩,
    ⟨0x7FFFF00, 0x7FFFF1A, .pointerTable⟩, ⟨0x7FFFF80, 0x7FFFFFF, .processorId⟩]

/-! ## Interrupts -/

/-- `TrapEntryMask`: FLAGS after the frame is saved is as it was, or what the function `Config.trapEntryMask` makes of it
(60_exceptions.md R510; log 23). -/
inductive TrapEntryMask where
  | identity
  | function
deriving DecidableEq, Repr

/-- `ExcReturnPC`: which address a synchronous exception saves as the program counter (60_exceptions.md R511; log 24). -/
inductive ExcReturnPC where
  | faulting
  | next
deriving DecidableEq, Repr

/-- `IntPriority`: of several interrupts that can be taken at one boundary, the first in this order is
(60_exceptions.md R513; log 32). -/
structure IntPriority where
  order : List IntNo
  complete : ∀ n : IntNo, n ∈ order
deriving DecidableEq, Repr

/-- The lowest number first. -/
def IntPriority.default : IntPriority where
  order := [0, 1, 2, 3, 4, 5, 6, 7, 8]
  complete := by decide

/-! ## All of them -/

/-- The named parameters of 00_scope.md R7 that the machine reads while it runs. No step changes them. `FloatOps` and `MPError`,
which are functions with no default, are constants of `Config`; `InitProt`, `ResetPC` and `UnwrittenRegs`, which speak of
reset only, are fields of `Machine.Launch`. -/
structure Settings where
  fetchOrder : FetchOrder
  specialRegs : SpecialRegs
  flagBits : FlagBits
  noUFFlagPolicy : NoUFFlagPolicy
  subOverflow : SubOverflow
  flagCO : FlagCO
  divOverflow : DivOverflow
  shiftOver : ShiftOver
  condTable : CondTable
  perm : Perm
  rmpPack : RMPPack
  memMap : MemMap
  /-- `VectorBase`: the address of the interrupt pointer table (60_exceptions.md R505; log 18). -/
  vectorBase : Addr
  /-- `StackDirectionFlag`: frames grow upward (10_state.md R40 (c); log 25). -/
  stackDirectionFlag : Bool
  trapEntryMask : TrapEntryMask
  excReturnPC : ExcReturnPC
  intPriority : IntPriority
  /-- `FetchCoherent`: a fetch sees every earlier store; when false, a byte stored since the program was loaded cannot be fetched
  (20_memory.md R79; log 34). -/
  fetchCoherent : Bool
deriving DecidableEq, Repr

/-- The defaults of 00_scope.md R7. -/
def Settings.default : Settings where
  fetchOrder := .default
  specialRegs := .default
  flagBits := .default
  noUFFlagPolicy := .always
  subOverflow := .source
  flagCO := .draw
  divOverflow := .default
  shiftOver := .mathematical
  condTable := .default
  perm := .default
  rmpPack := .default
  memMap := .default
  vectorBase := 0x7FFFF00#27
  stackDirectionFlag := false
  trapEntryMask := .identity
  excReturnPC := .faulting
  intPriority := .default
  fetchCoherent := true

/-- The two requests on page protection, SMP and RMP. -/
inductive ProtRequest where
  | set
  | read
deriving DecidableEq, Repr

namespace Config

/-! ## Free values: `draw(N)` of 00_scope.md R13, applied to the state's counter `draws` (log 2) -/

/-- The drawn Z bit (`NoUFFlagPolicy = draw`, 10_state.md R31). -/
opaque drawZ : Nat → Bool

/-- The drawn C bit (`FlagCO = draw`, 00_scope.md R14). -/
opaque drawC : Nat → Bool

/-- The drawn O bit (`FlagCO = draw`, 00_scope.md R14). -/
opaque drawO : Nat → Bool

/-- The drawn S bit (`NoUFFlagPolicy = draw`, 10_state.md R31). -/
opaque drawS : Nat → Bool

/-- The value of RND (44_move_extend_random.md R308). -/
opaque draw27 : Nat → Word

/-- The value of RNDM (44_move_extend_random.md R309). -/
opaque draw54 : Nat → Pair

/-- The return address a fetch exception saves under `ExcReturnPC = next` when the instruction's length is not
known: 60_exceptions.md R511 states none (log 24). -/
opaque unknownLengthReturn : Nat → Addr

/-! ## Parameters that are functions -/

/-- `FlagCO` as a function: C and O after an operation on N-bit operands (the second is 0 where there is one) with this
result. -/
opaque flagCO : FlagOp → (n : Nat) → (a b r : BitVec n) → Bool × Bool

/-- `ShiftOver` as a function: the result for an N-bit value and a count out of range. -/
opaque shiftOver : ShiftOp → (n : Nat) → BitVec n → Nat → BitVec n

/-- `TrapEntryMask` as a function. -/
opaque trapEntryMask : Word → Word

/-! ## `MPError`: SMP and RMP outside the clean domain (49_system.md R407, R408; log 20). The spec gives no default, so all of it
is free: which requests fail, the reason in rA, and what a request that does not fail does. Each is applied to the state's
counter `draws` too, so that nothing ties one request to another. -/

/-- The error reason that a request with this address and page count leaves in rA, or that it does not fail. -/
opaque mpError : Nat → ProtRequest → (a n : Word) → Option Word

/-- The pages that an SMP outside the clean domain that does not fail sets. -/
opaque mpPages : Nat → (a n : Word) → List Nat

/-- What an RMP outside the clean domain that does not fail puts in rA. -/
opaque mpRead : Nat → (a n : Word) → Word

/-! ## `FloatOps`: the floating-point functions, whose format the source never gives (48_float.md R370; log 11) -/

/-- Floating-point sum. -/
opaque fadd : (n : Nat) → BitVec n → BitVec n → BitVec n

/-- Floating-point difference. -/
opaque fsub : (n : Nat) → BitVec n → BitVec n → BitVec n

/-- Floating-point product. -/
opaque fmul : (n : Nat) → BitVec n → BitVec n → BitVec n

/-- Floating-point quotient. -/
opaque fdiv : (n : Nat) → BitVec n → BitVec n → BitVec n

/-- Floating-point modulus. -/
opaque fmod : (n : Nat) → BitVec n → BitVec n → BitVec n

/-- Floating-point negation. -/
opaque fneg : (n : Nat) → BitVec n → BitVec n

/-- Integer to floating point. -/
opaque itf : (n : Nat) → BitVec n → BitVec n

/-- Floating point to integer. -/
opaque fti : (n : Nat) → BitVec n → BitVec n

/-- Is the floating-point value equal to 0.0? -/
opaque fzero : (n : Nat) → BitVec n → Bool

/-- Is the floating-point value less than 0.0? -/
opaque fltz : (n : Nat) → BitVec n → Bool

/-- Does this floating-point division or modulus raise DivideByZero? -/
opaque fdivfault : (n : Nat) → BitVec n → BitVec n → Bool

end Config

end Sys2Proof
end

