-- ==== Sys2Proof/Syntax.lean ====
section
/-! DEFINITION. The instructions: one constructor for each of the 132 rows of spec/opcode_table.json (30_encoding.md R120). -/

namespace Sys2Proof

/-- An instruction with its operand fields. `rA`, `rB`, `rC` are register numbers; `uf` is the update-flags bit
(10_state.md R30); immediates, offsets and locations keep the width of their field (30_encoding.md R119); `count` is the
Register Count field (registers moved minus 1), `mode` the Adjust rB field, `cond` the Condition field and `prot` the
Memory Flags field. -/
inductive Instr where
  /-- AD, "Add": 40_add_subtract.md R202. -/
  | ad (rA : RegNo) (rB : RegNo) (rC : RegNo) (uf : Bool)
  /-- ADI, "Add Immediate": 40_add_subtract.md R203. -/
  | adi (rA : RegNo) (rB : RegNo) (imm : BitVec 7) (uf : Bool)
  /-- ADM, "Add Multi Reg": 40_add_subtract.md R204. -/
  | adm (rA : RegNo) (rB : RegNo) (rC : RegNo) (uf : Bool)
  /-- ADIM, "Add Immediate Multi Reg": 40_add_subtract.md R205. -/
  | adim (rA : RegNo) (rB : RegNo) (imm : BitVec 7) (uf : Bool)
  /-- ADC, "Add With Carry": 40_add_subtract.md R206. -/
  | adc (rA : RegNo) (rB : RegNo) (rC : RegNo) (uf : Bool)
  /-- ADCI, "Add Immediate With Carry": 40_add_subtract.md R207. -/
  | adci (rA : RegNo) (rB : RegNo) (imm : BitVec 7) (uf : Bool)
  /-- ADCM, "Add Multi Reg With Carry": 40_add_subtract.md R208. -/
  | adcm (rA : RegNo) (rB : RegNo) (rC : RegNo) (uf : Bool)
  /-- ADCIM, "Add Immediate Multi Reg With Carry": 40_add_subtract.md R209. -/
  | adcim (rA : RegNo) (rB : RegNo) (imm : BitVec 7) (uf : Bool)
  /-- SB, "Subtract": 40_add_subtract.md R210. -/
  | sb (rA : RegNo) (rB : RegNo) (rC : RegNo) (uf : Bool)
  /-- SBI, "Subtract Immediate": 40_add_subtract.md R211. -/
  | sbi (rA : RegNo) (rB : RegNo) (imm : BitVec 7) (uf : Bool)
  /-- SBM, "Subtract Multi Reg": 40_add_subtract.md R212. -/
  | sbm (rA : RegNo) (rB : RegNo) (rC : RegNo) (uf : Bool)
  /-- SBIM, "Subtract Immediate Multi Reg": 40_add_subtract.md R213. -/
  | sbim (rA : RegNo) (rB : RegNo) (imm : BitVec 7) (uf : Bool)
  /-- SBC, "Subtract With Carry": 40_add_subtract.md R214. -/
  | sbc (rA : RegNo) (rB : RegNo) (rC : RegNo) (uf : Bool)
  /-- SBCI, "Subtract Immediate With Carry": 40_add_subtract.md R215. -/
  | sbci (rA : RegNo) (rB : RegNo) (imm : BitVec 7) (uf : Bool)
  /-- SBCM, "Subtract Multi Reg With Carry": 40_add_subtract.md R216. -/
  | sbcm (rA : RegNo) (rB : RegNo) (rC : RegNo) (uf : Bool)
  /-- SBCIM, "Subtract Immediate Multi Reg With Carry": 40_add_subtract.md R217. -/
  | sbcim (rA : RegNo) (rB : RegNo) (imm : BitVec 7) (uf : Bool)
  /-- MU, "Multiply": 41_multiply_divide_modulus.md R222. -/
  | mu (rA : RegNo) (rB : RegNo) (rC : RegNo) (uf : Bool)
  /-- MUI, "Multiply Immediate": 41_multiply_divide_modulus.md R223. -/
  | mui (rA : RegNo) (rB : RegNo) (imm : BitVec 7) (uf : Bool)
  /-- MUM, "Multiply Multi Reg": 41_multiply_divide_modulus.md R224. -/
  | mum (rA : RegNo) (rB : RegNo) (rC : RegNo) (uf : Bool)
  /-- MUIM, "Multiply Immediate Multi Reg": 41_multiply_divide_modulus.md R225. -/
  | muim (rA : RegNo) (rB : RegNo) (imm : BitVec 7) (uf : Bool)
  /-- MUS, "Multiply Signed": 41_multiply_divide_modulus.md R226. -/
  | mus (rA : RegNo) (rB : RegNo) (rC : RegNo) (uf : Bool)
  /-- MUIS, "Multiply Immediate Signed": 41_multiply_divide_modulus.md R227. -/
  | muis (rA : RegNo) (rB : RegNo) (imm : BitVec 7) (uf : Bool)
  /-- MUSM, "Multiply Signed Multi Reg": 41_multiply_divide_modulus.md R228. -/
  | musm (rA : RegNo) (rB : RegNo) (rC : RegNo) (uf : Bool)
  /-- MUISM, "Multiply Immediate Signed Multi Reg": 41_multiply_divide_modulus.md R229. -/
  | muism (rA : RegNo) (rB : RegNo) (imm : BitVec 7) (uf : Bool)
  /-- DV, "Divide": 41_multiply_divide_modulus.md R230. -/
  | dv (rA : RegNo) (rB : RegNo) (rC : RegNo) (uf : Bool)
  /-- DVI, "Divide Immediate": 41_multiply_divide_modulus.md R231. -/
  | dvi (rA : RegNo) (rB : RegNo) (imm : BitVec 7) (uf : Bool)
  /-- DVM, "Divide Multi Reg": 41_multiply_divide_modulus.md R232. -/
  | dvm (rA : RegNo) (rB : RegNo) (rC : RegNo) (uf : Bool)
  /-- DVIM, "Divide Immediate Multi Reg": 41_multiply_divide_modulus.md R233. -/
  | dvim (rA : RegNo) (rB : RegNo) (imm : BitVec 7) (uf : Bool)
  /-- DVS, "Divide Signed": 41_multiply_divide_modulus.md R234. -/
  | dvs (rA : RegNo) (rB : RegNo) (rC : RegNo) (uf : Bool)
  /-- DVIS, "Divide Immediate Signed": 41_multiply_divide_modulus.md R235. -/
  | dvis (rA : RegNo) (rB : RegNo) (imm : BitVec 7) (uf : Bool)
  /-- DVSM, "Divide Signed Multi Reg": 41_multiply_divide_modulus.md R236. -/
  | dvsm (rA : RegNo) (rB : RegNo) (rC : RegNo) (uf : Bool)
  /-- DVISM, "Divide Immediate Signed Multi Reg": 41_multiply_divide_modulus.md R237. -/
  | dvism (rA : RegNo) (rB : RegNo) (imm : BitVec 7) (uf : Bool)
  /-- MD, "Modulus": 41_multiply_divide_modulus.md R238. -/
  | md (rA : RegNo) (rB : RegNo) (rC : RegNo) (uf : Bool)
  /-- MDI, "Modulus Immediate": 41_multiply_divide_modulus.md R239. -/
  | mdi (rA : RegNo) (rB : RegNo) (imm : BitVec 7) (uf : Bool)
  /-- MDM, "Modulus Multi Reg": 41_multiply_divide_modulus.md R240. -/
  | mdm (rA : RegNo) (rB : RegNo) (rC : RegNo) (uf : Bool)
  /-- MDIM, "Modulus Immediate Multi Reg": 41_multiply_divide_modulus.md R241. -/
  | mdim (rA : RegNo) (rB : RegNo) (imm : BitVec 7) (uf : Bool)
  /-- MDS, "Modulus Signed": 41_multiply_divide_modulus.md R242. -/
  | mds (rA : RegNo) (rB : RegNo) (rC : RegNo) (uf : Bool)
  /-- MDIS, "Modulus Immediate Signed": 41_multiply_divide_modulus.md R243. -/
  | mdis (rA : RegNo) (rB : RegNo) (imm : BitVec 7) (uf : Bool)
  /-- MDSM, "Modulus Signed Multi Reg": 41_multiply_divide_modulus.md R244. -/
  | mdsm (rA : RegNo) (rB : RegNo) (rC : RegNo) (uf : Bool)
  /-- MDISM, "Modulus Immediate Signed Multi Reg": 41_multiply_divide_modulus.md R245. -/
  | mdism (rA : RegNo) (rB : RegNo) (imm : BitVec 7) (uf : Bool)
  /-- AN, "And": 42_logic_negate.md R251. -/
  | an (rA : RegNo) (rB : RegNo) (rC : RegNo) (uf : Bool)
  /-- ANI, "And Immediate": 42_logic_negate.md R252. -/
  | ani (rA : RegNo) (rB : RegNo) (imm : BitVec 7) (uf : Bool)
  /-- ANM, "And Multi Reg": 42_logic_negate.md R253. -/
  | anm (rA : RegNo) (rB : RegNo) (rC : RegNo) (uf : Bool)
  /-- OR, "Or": 42_logic_negate.md R254. -/
  | or (rA : RegNo) (rB : RegNo) (rC : RegNo) (uf : Bool)
  /-- ORI, "Or Immediate": 42_logic_negate.md R255. -/
  | ori (rA : RegNo) (rB : RegNo) (imm : BitVec 7) (uf : Bool)
  /-- ORM, "Or Multi Reg": 42_logic_negate.md R256. -/
  | orm (rA : RegNo) (rB : RegNo) (rC : RegNo) (uf : Bool)
  /-- XR, "Xor": 42_logic_negate.md R257. -/
  | xr (rA : RegNo) (rB : RegNo) (rC : RegNo) (uf : Bool)
  /-- XRI, "Xor Immediate": 42_logic_negate.md R258. -/
  | xri (rA : RegNo) (rB : RegNo) (imm : BitVec 7) (uf : Bool)
  /-- XRM, "Xor Multi Reg": 42_logic_negate.md R259. -/
  | xrm (rA : RegNo) (rB : RegNo) (rC : RegNo) (uf : Bool)
  /-- BF, "Bit Flip": 42_logic_negate.md R260. -/
  | bf (rA : RegNo) (rB : RegNo) (uf : Bool)
  /-- BFM, "Bit Flip Multi Reg": 42_logic_negate.md R261. -/
  | bfm (rA : RegNo) (rB : RegNo) (uf : Bool)
  /-- NG, "Negate": 42_logic_negate.md R262. -/
  | ng (rA : RegNo) (rB : RegNo) (uf : Bool)
  /-- NGM, "Negate Multi Reg": 42_logic_negate.md R263. -/
  | ngm (rA : RegNo) (rB : RegNo) (uf : Bool)
  /-- NT, "Not": 42_logic_negate.md R264. -/
  | nt (rA : RegNo) (rB : RegNo) (uf : Bool)
  /-- NTM, "Not Multi Reg": 42_logic_negate.md R265. -/
  | ntm (rA : RegNo) (rB : RegNo) (uf : Bool)
  /-- SL, "Shift Left": 43_shift_rotate.md R272. -/
  | sl (rA : RegNo) (rB : RegNo) (rC : RegNo) (uf : Bool)
  /-- SLI, "Shift Left Immediate": 43_shift_rotate.md R273. -/
  | sli (rA : RegNo) (rB : RegNo) (imm : BitVec 7) (uf : Bool)
  /-- SLM, "Shift Left Multi Reg": 43_shift_rotate.md R274. -/
  | slm (rA : RegNo) (rB : RegNo) (rC : RegNo) (uf : Bool)
  /-- SLIM, "Shift Left Immediate Multi Reg": 43_shift_rotate.md R275. -/
  | slim (rA : RegNo) (rB : RegNo) (imm : BitVec 7) (uf : Bool)
  /-- SR, "Shift Right": 43_shift_rotate.md R276. -/
  | sr (rA : RegNo) (rB : RegNo) (rC : RegNo) (uf : Bool)
  /-- SRI, "Shift Right Immediate": 43_shift_rotate.md R277. -/
  | sri (rA : RegNo) (rB : RegNo) (imm : BitVec 7) (uf : Bool)
  /-- SRM, "Shift Right Multi Reg": 43_shift_rotate.md R278. -/
  | srm (rA : RegNo) (rB : RegNo) (rC : RegNo) (uf : Bool)
  /-- SRIM, "Shift Right Immediate Multi Reg": 43_shift_rotate.md R279. -/
  | srim (rA : RegNo) (rB : RegNo) (imm : BitVec 7) (uf : Bool)
  /-- SA, "Shift Arithemetic Right": 43_shift_rotate.md R280. -/
  | sa (rA : RegNo) (rB : RegNo) (rC : RegNo) (uf : Bool)
  /-- SAI, "Shift Arithemetic Right Immediate": 43_shift_rotate.md R281. -/
  | sai (rA : RegNo) (rB : RegNo) (imm : BitVec 7) (uf : Bool)
  /-- SAM, "Shift Arithemetic Right Multi Reg": 43_shift_rotate.md R282. -/
  | sam (rA : RegNo) (rB : RegNo) (rC : RegNo) (uf : Bool)
  /-- SAIM, "Shift Arithemetic Right Immediate Multi Reg": 43_shift_rotate.md R283. -/
  | saim (rA : RegNo) (rB : RegNo) (imm : BitVec 7) (uf : Bool)
  /-- RL, "Rotate Left": 43_shift_rotate.md R284. -/
  | rl (rA : RegNo) (rB : RegNo) (rC : RegNo) (uf : Bool)
  /-- RLI, "Rotate Left Immediate": 43_shift_rotate.md R285. -/
  | rli (rA : RegNo) (rB : RegNo) (imm : BitVec 7) (uf : Bool)
  /-- RLM, "Rotate Left Multi Reg": 43_shift_rotate.md R286. -/
  | rlm (rA : RegNo) (rB : RegNo) (rC : RegNo) (uf : Bool)
  /-- RLIM, "Rotate Left Immediate Multi Reg": 43_shift_rotate.md R287. -/
  | rlim (rA : RegNo) (rB : RegNo) (imm : BitVec 7) (uf : Bool)
  /-- RR, "Rotate Right": 43_shift_rotate.md R288. -/
  | rr (rA : RegNo) (rB : RegNo) (rC : RegNo) (uf : Bool)
  /-- RRI, "Rotate Right Immediate": 43_shift_rotate.md R289. -/
  | rri (rA : RegNo) (rB : RegNo) (imm : BitVec 7) (uf : Bool)
  /-- RRM, "Rotate Right Multi Reg": 43_shift_rotate.md R290. -/
  | rrm (rA : RegNo) (rB : RegNo) (rC : RegNo) (uf : Bool)
  /-- RRIM, "Rotate Right Immediate Multi Reg": 43_shift_rotate.md R291. -/
  | rrim (rA : RegNo) (rB : RegNo) (imm : BitVec 7) (uf : Bool)
  /-- MH, "Move High": 44_move_extend_random.md R301. -/
  | mh (rA : RegNo) (imm : BitVec 17)
  /-- ML, "Move Low": 44_move_extend_random.md R302. -/
  | ml (rA : RegNo) (imm : BitVec 17)
  /-- MS, "Move Low Signed": 44_move_extend_random.md R303. -/
  | ms (rA : RegNo) (imm : BitVec 17)
  /-- SES, "Sign Extend Single": 44_move_extend_random.md R304. -/
  | ses (rA : RegNo) (rB : RegNo)
  /-- SEW, "Sign Extend Word": 44_move_extend_random.md R305. -/
  | sew (rA : RegNo) (rB : RegNo)
  /-- ZES, "Zero Extend Single": 44_move_extend_random.md R306. -/
  | zes (rA : RegNo) (rB : RegNo)
  /-- ZEW, "Zero Extend Word": 44_move_extend_random.md R307. -/
  | zew (rA : RegNo) (rB : RegNo)
  /-- RND, "Random": 44_move_extend_random.md R308. -/
  | rnd (rA : RegNo) (uf : Bool)
  /-- RNDM, "Random Multi Reg": 44_move_extend_random.md R309. -/
  | rndm (rA : RegNo) (uf : Bool)
  /-- CM, "Compare": 45_compare.md R321. -/
  | cm (rA : RegNo) (rB : RegNo)
  /-- CMI, "Compare Immediate": 45_compare.md R322. -/
  | cmi (rA : RegNo) (imm : BitVec 14)
  /-- CMM, "Compare Multi Reg": 45_compare.md R323. -/
  | cmm (rA : RegNo) (rB : RegNo)
  /-- CMIM, "Compare Immediate Multi Reg": 45_compare.md R324. -/
  | cmim (rA : RegNo) (imm : BitVec 14)
  /-- B, "Branch Conditional": 46_branch_call.md R331. -/
  | b (cond : Fin 16) (offset : BitVec 17)
  /-- BR, "Branch Register Conditional": 46_branch_call.md R332. -/
  | br (cond : Fin 16) (rA : RegNo)
  /-- BRA, "Branch Absolute": 46_branch_call.md R333. -/
  | bra (location : BitVec 27)
  /-- BRR, "Branch Relative": 46_branch_call.md R334. -/
  | brr (offset : BitVec 27)
  /-- C, "Call Conditional": 46_branch_call.md R335. -/
  | c (cond : Fin 16) (offset : BitVec 17)
  /-- CR, "Call Register Conditional": 46_branch_call.md R336. -/
  | cr (cond : Fin 16) (rA : RegNo)
  /-- CAA, "Call Absolute": 46_branch_call.md R337. -/
  | caa (location : BitVec 27)
  /-- CAR, "Call Relative": 46_branch_call.md R338. -/
  | car (offset : BitVec 27)
  /-- RE, "Return": 46_branch_call.md R339. -/
  | re
  /-- LDS, "Load Single": 47_load_store.md R351. -/
  | lds (rA : RegNo) (rB : RegNo) (count : Fin 32) (mode : Fin 4) (offset : BitVec 27)
  /-- LDW, "Load Word": 47_load_store.md R352. -/
  | ldw (rA : RegNo) (rB : RegNo) (count : Fin 32) (mode : Fin 4) (offset : BitVec 27)
  /-- LDT, "Load Tri": 47_load_store.md R353. -/
  | ldt (rA : RegNo) (rB : RegNo) (count : Fin 32) (mode : Fin 4) (offset : BitVec 27)
  /-- STS, "Store Single": 47_load_store.md R354. -/
  | sts (rA : RegNo) (rB : RegNo) (count : Fin 32) (mode : Fin 4) (offset : BitVec 27)
  /-- STW, "Store Word": 47_load_store.md R355. -/
  | stw (rA : RegNo) (rB : RegNo) (count : Fin 32) (mode : Fin 4) (offset : BitVec 27)
  /-- STT, "Store Tri": 47_load_store.md R356. -/
  | stt (rA : RegNo) (rB : RegNo) (count : Fin 32) (mode : Fin 4) (offset : BitVec 27)
  /-- DMT, "Direct Memory Transfer": 47_load_store.md R357. -/
  | dmt (rA : RegNo) (rB : RegNo) (rC : RegNo)
  /-- ADF, "Add Floating Point": 48_float.md R372. -/
  | adf (rA : RegNo) (rB : RegNo) (rC : RegNo) (uf : Bool)
  /-- ADFM, "Add Floating Point Multi Reg": 48_float.md R373. -/
  | adfm (rA : RegNo) (rB : RegNo) (rC : RegNo) (uf : Bool)
  /-- SBF, "Subtract Floating Point": 48_float.md R374. -/
  | sbf (rA : RegNo) (rB : RegNo) (rC : RegNo) (uf : Bool)
  /-- SBFM, "Subtract Floating Point Multi Reg": 48_float.md R375. -/
  | sbfm (rA : RegNo) (rB : RegNo) (rC : RegNo) (uf : Bool)
  /-- MUF, "Multiply Floating Point": 48_float.md R376. -/
  | muf (rA : RegNo) (rB : RegNo) (rC : RegNo) (uf : Bool)
  /-- MUFM, "Multiply Floating Point Multi Reg": 48_float.md R377. -/
  | mufm (rA : RegNo) (rB : RegNo) (rC : RegNo) (uf : Bool)
  /-- DVF, "Divide Floating Point": 48_float.md R378. -/
  | dvf (rA : RegNo) (rB : RegNo) (rC : RegNo) (uf : Bool)
  /-- DVFM, "Divide Floating Point Multi Reg": 48_float.md R379. -/
  | dvfm (rA : RegNo) (rB : RegNo) (rC : RegNo) (uf : Bool)
  /-- MDF, "Modulus Floating Point": 48_float.md R380. -/
  | mdf (rA : RegNo) (rB : RegNo) (rC : RegNo) (uf : Bool)
  /-- MDFM, "Modulus Floating Point Multi Reg": 48_float.md R381. -/
  | mdfm (rA : RegNo) (rB : RegNo) (rC : RegNo) (uf : Bool)
  /-- CMF, "Compare Floating Point": 48_float.md R382. -/
  | cmf (rA : RegNo) (rB : RegNo)
  /-- CMFM, "Compare Floating Point Multi Reg": 48_float.md R383. -/
  | cmfm (rA : RegNo) (rB : RegNo)
  /-- NGF, "Negate Floating Point": 48_float.md R384. -/
  | ngf (rA : RegNo) (rB : RegNo) (uf : Bool)
  /-- NGFM, "Negate Floating Point Multi Reg": 48_float.md R385. -/
  | ngfm (rA : RegNo) (rB : RegNo) (uf : Bool)
  /-- ITF, "Integer to Float": 48_float.md R386. -/
  | itf (rA : RegNo) (rB : RegNo)
  /-- ITFM, "Integer to Float Multi Reg": 48_float.md R387. -/
  | itfm (rA : RegNo) (rB : RegNo)
  /-- FTI, "Float to Integer": 48_float.md R388. -/
  | fti (rA : RegNo) (rB : RegNo)
  /-- FTIM, "Float to Integer Multi Reg": 48_float.md R389. -/
  | ftim (rA : RegNo) (rB : RegNo)
  /-- EI, "Enable Interrupts": 49_system.md R401. -/
  | ei (rA : RegNo)
  /-- DI, "Disable Interrupts": 49_system.md R402. -/
  | di (rA : RegNo)
  /-- HT, "Halt": 49_system.md R403. -/
  | ht
  /-- IR, "Interrupt Return": 49_system.md R404. -/
  | ir
  /-- RF, "Read Flags": 49_system.md R405. -/
  | rf (rA : RegNo)
  /-- SF, "Set Flags": 49_system.md R406. -/
  | sf (rA : RegNo)
  /-- SMP, "Set Memory Protection": 49_system.md R407. -/
  | smp (rA : RegNo) (rB : RegNo) (prot : Prot)
  /-- RMP, "Read Memory Protection": 49_system.md R408. -/
  | rmp (rA : RegNo) (rB : RegNo)
  /-- WT, "Wait": 49_system.md R409. -/
  | wt
  /-- DBRK, "Debug Break": 49_system.md R410. -/
  | dbrk
deriving DecidableEq, Repr

end Sys2Proof
end

