-- ==== Sys2Proof/WellFormed.lean ====
section
/-! DEFINITION. Which instruction terms are instructions of the machine: the two field values that no encoding has. -/

namespace Sys2Proof

/-- A Condition field of an assigned row of the condition table: by default `1110` has none (46_branch_call.md R330). -/
def condAssigned (t : CondTable) (cond : Fin 16) : Bool := t[cond.val].isSome

/-- An Adjust rB field that the loads and stores define: `11` is undefined (47_load_store.md R350). -/
def modeAssigned (mode : Fin 4) : Bool := mode != 3

/-- The instruction term is one that some instruction word encodes, under the condition table (30_encoding.md R130 (d)). -/
def WellFormed (t : CondTable) (i : Instr) : Bool :=
  match i with
  | .ad _ _ _ _ => true
  | .adi _ _ _ _ => true
  | .adm _ _ _ _ => true
  | .adim _ _ _ _ => true
  | .adc _ _ _ _ => true
  | .adci _ _ _ _ => true
  | .adcm _ _ _ _ => true
  | .adcim _ _ _ _ => true
  | .sb _ _ _ _ => true
  | .sbi _ _ _ _ => true
  | .sbm _ _ _ _ => true
  | .sbim _ _ _ _ => true
  | .sbc _ _ _ _ => true
  | .sbci _ _ _ _ => true
  | .sbcm _ _ _ _ => true
  | .sbcim _ _ _ _ => true
  | .mu _ _ _ _ => true
  | .mui _ _ _ _ => true
  | .mum _ _ _ _ => true
  | .muim _ _ _ _ => true
  | .mus _ _ _ _ => true
  | .muis _ _ _ _ => true
  | .musm _ _ _ _ => true
  | .muism _ _ _ _ => true
  | .dv _ _ _ _ => true
  | .dvi _ _ _ _ => true
  | .dvm _ _ _ _ => true
  | .dvim _ _ _ _ => true
  | .dvs _ _ _ _ => true
  | .dvis _ _ _ _ => true
  | .dvsm _ _ _ _ => true
  | .dvism _ _ _ _ => true
  | .md _ _ _ _ => true
  | .mdi _ _ _ _ => true
  | .mdm _ _ _ _ => true
  | .mdim _ _ _ _ => true
  | .mds _ _ _ _ => true
  | .mdis _ _ _ _ => true
  | .mdsm _ _ _ _ => true
  | .mdism _ _ _ _ => true
  | .an _ _ _ _ => true
  | .ani _ _ _ _ => true
  | .anm _ _ _ _ => true
  | .or _ _ _ _ => true
  | .ori _ _ _ _ => true
  | .orm _ _ _ _ => true
  | .xr _ _ _ _ => true
  | .xri _ _ _ _ => true
  | .xrm _ _ _ _ => true
  | .bf _ _ _ => true
  | .bfm _ _ _ => true
  | .ng _ _ _ => true
  | .ngm _ _ _ => true
  | .nt _ _ _ => true
  | .ntm _ _ _ => true
  | .sl _ _ _ _ => true
  | .sli _ _ _ _ => true
  | .slm _ _ _ _ => true
  | .slim _ _ _ _ => true
  | .sr _ _ _ _ => true
  | .sri _ _ _ _ => true
  | .srm _ _ _ _ => true
  | .srim _ _ _ _ => true
  | .sa _ _ _ _ => true
  | .sai _ _ _ _ => true
  | .sam _ _ _ _ => true
  | .saim _ _ _ _ => true
  | .rl _ _ _ _ => true
  | .rli _ _ _ _ => true
  | .rlm _ _ _ _ => true
  | .rlim _ _ _ _ => true
  | .rr _ _ _ _ => true
  | .rri _ _ _ _ => true
  | .rrm _ _ _ _ => true
  | .rrim _ _ _ _ => true
  | .mh _ _ => true
  | .ml _ _ => true
  | .ms _ _ => true
  | .ses _ _ => true
  | .sew _ _ => true
  | .zes _ _ => true
  | .zew _ _ => true
  | .rnd _ _ => true
  | .rndm _ _ => true
  | .cm _ _ => true
  | .cmi _ _ => true
  | .cmm _ _ => true
  | .cmim _ _ => true
  | .b cond _ => condAssigned t cond
  | .br cond _ => condAssigned t cond
  | .bra _ => true
  | .brr _ => true
  | .c cond _ => condAssigned t cond
  | .cr cond _ => condAssigned t cond
  | .caa _ => true
  | .car _ => true
  | .re => true
  | .lds _ _ _ mode _ => modeAssigned mode
  | .ldw _ _ _ mode _ => modeAssigned mode
  | .ldt _ _ _ mode _ => modeAssigned mode
  | .sts _ _ _ mode _ => modeAssigned mode
  | .stw _ _ _ mode _ => modeAssigned mode
  | .stt _ _ _ mode _ => modeAssigned mode
  | .dmt _ _ _ => true
  | .adf _ _ _ _ => true
  | .adfm _ _ _ _ => true
  | .sbf _ _ _ _ => true
  | .sbfm _ _ _ _ => true
  | .muf _ _ _ _ => true
  | .mufm _ _ _ _ => true
  | .dvf _ _ _ _ => true
  | .dvfm _ _ _ _ => true
  | .mdf _ _ _ _ => true
  | .mdfm _ _ _ _ => true
  | .cmf _ _ => true
  | .cmfm _ _ => true
  | .ngf _ _ _ => true
  | .ngfm _ _ _ => true
  | .itf _ _ => true
  | .itfm _ _ => true
  | .fti _ _ => true
  | .ftim _ _ => true
  | .ei _ => true
  | .di _ => true
  | .ht => true
  | .ir => true
  | .rf _ => true
  | .sf _ => true
  | .smp _ _ _ => true
  | .rmp _ _ => true
  | .wt => true
  | .dbrk => true

end Sys2Proof
end

