-- ==== Sys2Proof/Decode.lean ====
section
/-! DEFINITION. The decoder, total on any bytes and rejecting by name (30_encoding.md R102, R120, R130), and the encoder written from the same tables. -/

namespace Sys2Proof

/-- Why bytes are no instruction. Each raises InvalidInstruction when the step meets it (30_encoding.md R130), but for
`truncated`, which no fetch produces. -/
inductive DecodeError where
  /-- Fewer bytes than the instruction has. -/
  | truncated
  /-- The first two bytes select no length (30_encoding.md R102, rows "undefined"). -/
  | noLength
  /-- An unassigned opcode, or a constant field with other bits (30_encoding.md R130 (a), (b), (c)). -/
  | unassigned
  /-- An invalid Condition value, by default `1110` (30_encoding.md R130 (d)). -/
  | reservedCondition
  /-- The Adjust rB value 3 (30_encoding.md R130 (d)). -/
  | reservedAdjust
deriving DecidableEq, Repr

/-! ## Instruction bytes in memory (20_memory.md R67, `FetchOrder`) -/

/-- Two bytes, swapped or not. -/
def twoBytes (swap : Bool) (a b : Byte) : List Byte := if swap then [b, a] else [a, b]

/-- One of four bytes by its number. -/
def pickByte (a b c d : Byte) (k : Fin 4) : Byte :=
  match k with
  | 0 => a
  | 1 => b
  | 2 => c
  | 3 => d

/-- The group with number `j` among g2 to g5, from the bytes at offsets 2 to 5 of a 54-bit instruction. -/
def groupAt (o : FetchOrder) (a b c d : Byte) (j : Fin 4) : Byte :=
  if o.six2 = j then a else if o.six3 = j then b else if o.six4 = j then c else d

/-- The 9-bit groups g0, g1, ... of an instruction put in memory order. -/
def toMemory (o : FetchOrder) : List Byte → List Byte
  | [a, b] => twoBytes o.swapFirst a b
  | [a, b, c] => twoBytes o.swapFirst a b ++ [c]
  | [a, b, c, d] => twoBytes o.swapFirst a b ++ twoBytes o.swapFour c d
  | [a, b, c, d, e, f] =>
    let g := pickByte c d e f
    twoBytes o.swapFirst a b ++ [g o.six2, g o.six3, g o.six4, g o.six5]
  | l => l

/-- The bytes of an instruction in memory order put in the order g0, g1, ... -/
def fromMemory (o : FetchOrder) : List Byte → List Byte
  | [a, b] => twoBytes o.swapFirst a b
  | [a, b, c] => twoBytes o.swapFirst a b ++ [c]
  | [a, b, c, d] => twoBytes o.swapFirst a b ++ twoBytes o.swapFour c d
  | [a, b, c, d, e, f] =>
    let g := groupAt o c d e f
    twoBytes o.swapFirst a b ++ [g 0, g 1, g 2, g 3]
  | l => l

/-- The word whose 9-bit groups, most significant first, are the list (00_scope.md R9). -/
def joinGroups (l : List Byte) : Nat := l.foldl (fun w b => w * 2 ^ 9 + b.toNat) 0

/-- The `n` low 9-bit groups of a word, most significant first. -/
def splitGroups : Nat → Nat → List Byte
  | 0, _ => []
  | n + 1, w => BitVec.ofNat 9 (w / 2 ^ (9 * n)) :: splitGroups n w

/-- The word that bytes in memory order hold. -/
def wordOfBytes (o : FetchOrder) (l : List Byte) : Nat := joinGroups (fromMemory o l)

/-- The bytes, in memory order, of a word of `n` bytes. -/
def bytesOfWord (o : FetchOrder) (n w : Nat) : List Byte := toMemory o (splitGroups n w)

/-! ## Length (30_encoding.md R102) -/

/-- The length in bytes that the first 18 figure bits `p` select, `none` for the rows "undefined" of
30_encoding.md R102. -/
def lengthOf (p : Nat) : Option Nat :=
  let lead := p / 2 ^ 13
  if lead < 20 then some 3
  else if lead = 20 then
    if p / 2 ^ 11 % 4 = 0 then
      let sub := p / 2 ^ 6 % 32
      if sub ≤ 5 ∨ sub = 11 ∨ sub = 12 then some 2
      else if 7 ≤ sub ∧ sub ≤ 10 then some 3
      else none
    else some 3
  else if lead = 21 ∨ lead = 22 then some 6
  else if lead = 23 then (if p / 2 ^ 10 % 2 = 0 then some 2 else some 3)
  else if lead = 24 ∨ lead = 26 then some 3
  else if lead = 25 ∨ lead = 27 then some 2
  else if lead = 28 then some 4
  else if lead = 31 then some 2
  else none

/-! ## Fields of an instruction word: `lo` is the lowest word bit of the field -/

/-- A 5-bit register field. -/
def regAt (w lo : Nat) : RegNo := ⟨w / 2 ^ lo % 32, Nat.mod_lt _ (by decide)⟩

/-- An immediate, offset or location field of `n` bits. -/
def immAt (n w lo : Nat) : BitVec n := BitVec.ofNat n (w / 2 ^ lo)

/-- The UF field, word bit 0. -/
def ufOf (w : Nat) : Bool := w % 2 == 1

/-- The 4-bit Condition field. -/
def condAt (w lo : Nat) : Fin 16 := ⟨w / 2 ^ lo % 16, Nat.mod_lt _ (by decide)⟩

/-- The 2-bit Adjust rB field. -/
def modeAt (w lo : Nat) : Fin 4 := ⟨w / 2 ^ lo % 4, Nat.mod_lt _ (by decide)⟩

/-! ## One decoder for each format (30_encoding.md R103 to R117) -/

/-- A three-register instruction under construction. -/
abbrev MkR3 := RegNo → RegNo → RegNo → Bool → Instr

/-- A two-register and 7-bit immediate instruction under construction. -/
abbrev MkRI := RegNo → RegNo → BitVec 7 → Bool → Instr

/-- Keep the instruction when its constant fields hold the printed bits. -/
def decodeIf (constant : Prop) [Decidable constant] (i : Instr) : Except DecodeError Instr :=
  if constant then .ok i else .error .unassigned

/-- Format R3 (30_encoding.md R103); the const field is word bits 4 to 1. -/
def decodeR3 (k w : Nat) (mk : MkR3) : Except DecodeError Instr :=
  decodeIf (w / 2 % 16 = k) (mk (regAt w 15) (regAt w 10) (regAt w 5) (ufOf w))

/-- Format RI (30_encoding.md R104); the const field is word bits 2 and 1. -/
def decodeRI (k w : Nat) (mk : MkRI) : Except DecodeError Instr :=
  decodeIf (w / 2 % 4 = k) (mk (regAt w 15) (regAt w 10) (immAt 7 w 3) (ufOf w))

/-- An opcode with a register form only. -/
def decodeR (w : Nat) (r : MkR3) : Except DecodeError Instr := decodeR3 0 w r

/-- An opcode whose register and immediate forms share it: figure bit 25 tells them apart (30_encoding.md R104). -/
def decodeRorI (w : Nat) (r : MkR3) (i : MkRI) : Except DecodeError Instr :=
  if w / 2 % 2 = 0 then decodeR3 0 w r else decodeRI 1 w i

/-- An opcode with unsigned and signed, register and immediate forms (30_encoding.md R103, R104). -/
def decodeSigned (w : Nat) (r : MkR3) (i : MkRI) (rs : MkR3) (is : MkRI) : Except DecodeError Instr :=
  match w / 2 % 4 with
  | 0 => decodeR3 0 w r
  | 1 => decodeRI 1 w i
  | 2 => decodeR3 2 w rs
  | _ => decodeRI 3 w is

/-- Format R2X (30_encoding.md R109). -/
def decodeR2X (w : Nat) (mk : RegNo → RegNo → Instr) : Except DecodeError Instr :=
  decodeIf (w % 32 = 0) (mk (regAt w 10) (regAt w 5))

/-- Format R2C (30_encoding.md R110). -/
def decodeR2C (w : Nat) (mk : RegNo → RegNo → Instr) : Except DecodeError Instr :=
  decodeIf (w % 256 = 0) (mk (regAt w 13) (regAt w 8))

/-- Formats R2U and R1U of the integer opcodes (30_encoding.md R111, R112): the function code, word bits 7 to 1, selects
negate, not, bit flip or random; random has no rB, whose bits are `00000`. -/
def decodeR2U (w : Nat) (ng nt bf : RegNo → RegNo → Bool → Instr) (rnd : RegNo → Bool → Instr) :
    Except DecodeError Instr :=
  match w / 2 % 128 with
  | 0 => .ok (ng (regAt w 13) (regAt w 8) (ufOf w))
  | 32 => .ok (nt (regAt w 13) (regAt w 8) (ufOf w))
  | 64 => .ok (bf (regAt w 13) (regAt w 8) (ufOf w))
  | 96 => decodeIf (w / 2 ^ 8 % 32 = 0) (rnd (regAt w 13) (ufOf w))
  | _ => .error .unassigned

/-- Format R2U of the floating-point opcodes: negate only (30_encoding.md R111). -/
def decodeR2UF (w : Nat) (ng : RegNo → RegNo → Bool → Instr) : Except DecodeError Instr :=
  decodeIf (w / 2 % 128 = 0) (ng (regAt w 13) (regAt w 8) (ufOf w))

/-- Formats MP and MPF (30_encoding.md R113): word bit 9 tells RMP from SMP. -/
def decodeMP (w : Nat) : Except DecodeError Instr :=
  if w / 2 ^ 9 % 2 = 0 then decodeIf (w % 2 ^ 9 = 0) (.rmp (regAt w 15) (regAt w 10))
  else decodeIf (w % 2 ^ 7 = 0) (.smp (regAt w 15) (regAt w 10) (immAt 2 w 7))

/-- Format BO (30_encoding.md R116). -/
def decodeBO (t : CondTable) (w : Nat) (mk : Fin 16 → BitVec 17 → Instr) : Except DecodeError Instr :=
  if condAssigned t (condAt w 17) then .ok (mk (condAt w 17) (immAt 17 w 0)) else .error .reservedCondition

/-- Format BR (30_encoding.md R116). -/
def decodeBR (t : CondTable) (w : Nat) (mk : Fin 16 → RegNo → Instr) : Except DecodeError Instr :=
  if w % 8 = 0 then
    if condAssigned t (condAt w 8) then .ok (mk (condAt w 8) (regAt w 3)) else .error .reservedCondition
  else .error .unassigned

/-- Format R1 (30_encoding.md R107). -/
def decodeR1 (w : Nat) (mk : RegNo → Instr) : Except DecodeError Instr :=
  decodeIf (w % 2 = 0) (mk (regAt w 1))

/-- Format CR2 (30_encoding.md R115). -/
def decodeCR2 (w : Nat) (mk : RegNo → RegNo → Instr) : Except DecodeError Instr :=
  .ok (mk (regAt w 5) (regAt w 0))

/-- Format CI (30_encoding.md R115): word bit 19 is the last opcode bit. -/
def decodeCI (w : Nat) (mk : RegNo → BitVec 14 → Instr) : Except DecodeError Instr :=
  decodeIf (w / 2 ^ 19 % 2 = 1) (mk (regAt w 14) (immAt 14 w 0))

/-- Format MI (30_encoding.md R106). -/
def decodeMI (w : Nat) (mk : RegNo → BitVec 17 → Instr) : Except DecodeError Instr :=
  .ok (mk (regAt w 17) (immAt 17 w 0))

/-- Format LS (30_encoding.md R114). -/
def decodeLS (w : Nat) (mk : RegNo → RegNo → Fin 32 → Fin 4 → BitVec 27 → Instr) : Except DecodeError Instr :=
  if w % 8 = 0 then
    if modeAssigned (modeAt w 30) then
      .ok (mk (regAt w 42) (regAt w 37) (regAt w 32) (modeAt w 30) (immAt 27 w 3))
    else .error .reservedAdjust
  else .error .unassigned

/-! ## The opcode map (30_encoding.md R120), one decoder for each length -/

/-- The 27-bit instructions, by the 7-bit opcode (figure bits 0 to 6). -/
def decode27 (t : CondTable) (w : Nat) : Except DecodeError Instr :=
  match w / 2 ^ 20 with
  | 0 => decodeRorI w .ad .adi
  | 1 => decodeR w .adf
  | 2 => decodeRorI w .adm .adim
  | 3 => decodeR w .adfm
  | 4 => decodeRorI w .sb .sbi
  | 5 => decodeR w .sbf
  | 6 => decodeRorI w .sbm .sbim
  | 7 => decodeR w .sbfm
  | 8 => decodeSigned w .mu .mui .mus .muis
  | 9 => decodeR w .muf
  | 10 => decodeSigned w .mum .muim .musm .muism
  | 11 => decodeR w .mufm
  | 12 => decodeSigned w .dv .dvi .dvs .dvis
  | 13 => decodeR w .dvf
  | 14 => decodeSigned w .dvm .dvim .dvsm .dvism
  | 15 => decodeR w .dvfm
  | 16 => decodeSigned w .md .mdi .mds .mdis
  | 17 => decodeR w .mdf
  | 18 => decodeSigned w .mdm .mdim .mdsm .mdism
  | 19 => decodeR w .mdfm
  | 20 => decodeRorI w .an .ani
  | 22 => decodeR w .anm
  | 24 => decodeRorI w .or .ori
  | 26 => decodeR w .orm
  | 28 => decodeRorI w .xr .xri
  | 30 => decodeR w .xrm
  | 32 => decodeRorI w .adc .adci
  | 34 => decodeRorI w .adcm .adcim
  | 36 => decodeRorI w .sbc .sbci
  | 38 => decodeRorI w .sbcm .sbcim
  | 40 => decodeR w .sl
  | 41 => decodeR w .sr
  | 42 => decodeR w .slm
  | 43 => decodeR w .srm
  | 45 => decodeR w .sa
  | 47 => decodeR w .sam
  | 48 => decodeR w .rl
  | 49 => decodeR w .rr
  | 50 => decodeR w .rlm
  | 51 => decodeR w .rrm
  | 52 => decodeIf (w % 32 = 0) (.dmt (regAt w 15) (regAt w 10) (regAt w 5))
  | 56 => decodeRI 0 w .sli
  | 57 => decodeRI 0 w .sri
  | 58 => decodeRI 0 w .slim
  | 59 => decodeRI 0 w .srim
  | 61 => decodeRI 0 w .sai
  | 63 => decodeRI 0 w .saim
  | 64 => decodeRI 0 w .rli
  | 65 => decodeRI 0 w .rri
  | 66 => decodeRI 0 w .rlim
  | 67 => decodeRI 0 w .rrim
  | 68 | 69 | 70 | 71 => decodeMI w .mh
  | 72 | 73 | 74 | 75 => decodeMI w .ml
  | 76 | 77 | 78 | 79 => decodeMI w .ms
  | 80 =>
    match w / 2 ^ 15 % 32 with
    | 7 => decodeR2X w .ses
    | 8 => decodeR2X w .sew
    | 9 => decodeR2X w .zes
    | 10 => decodeR2X w .zew
    | _ => .error .unassigned
  | 81 =>
    match w / 2 ^ 18 % 4 with
    | 0 => decodeR2C w .itf
    | 1 => decodeR2C w .fti
    | 2 => decodeR2C w .itfm
    | _ => decodeR2C w .ftim
  | 82 => decodeMP w
  | 83 =>
    match w / 2 ^ 18 % 4 with
    | 0 => decodeR2U w .ng .nt .bf .rnd
    | 1 => decodeR2UF w .ngf
    | 2 => decodeR2U w .ngm .ntm .bfm .rndm
    | _ => decodeR2UF w .ngfm
  | 92 => decodeCI w .cmi
  | 94 => decodeCI w .cmim
  | 96 | 97 => decodeBO t w .b
  | 106 | 107 => decodeBO t w .c
  | _ => .error .unassigned

/-- The 18-bit instructions under opcode `1010000`, by figure bits 7 to 11. -/
def decodeSystem18 (w : Nat) : Except DecodeError Instr :=
  match w / 2 ^ 6 % 32 with
  | 0 => decodeIf (w % 2 ^ 6 = 0) .re
  | 1 => decodeIf (w % 2 ^ 6 = 0) .ir
  | 2 => decodeIf (w % 2 ^ 6 = 0) .wt
  | 3 => decodeIf (w % 2 ^ 6 = 0) .ht
  | 4 => decodeR1 w .ei
  | 5 => decodeR1 w .di
  | 11 => decodeR1 w .sf
  | 12 => decodeR1 w .rf
  | _ => .error .unassigned

/-- The 18-bit instructions, by figure bits 0 to 7. -/
def decode18 (t : CondTable) (w : Nat) : Except DecodeError Instr :=
  match w / 2 ^ 10 with
  | 160 | 161 => decodeSystem18 w
  | 184 => decodeCR2 w .cm
  | 186 => decodeCR2 w .cmf
  | 188 => decodeCR2 w .cmm
  | 190 => decodeCR2 w .cmfm
  | 200 | 201 | 202 | 203 => decodeBR t w .br
  | 220 | 221 | 222 | 223 => decodeBR t w .cr
  | 255 => decodeIf (w % 2 ^ 10 = 2 ^ 10 - 1) .dbrk
  | _ => .error .unassigned

/-- The 36-bit instructions, by the 9-bit opcode (30_encoding.md R117). -/
def decode36 (w : Nat) : Except DecodeError Instr :=
  let op := w / 2 ^ 27
  if op = 448 then .ok (.brr (immAt 27 w 0))
  else if op = 452 then .ok (.bra (immAt 27 w 0))
  else if op = 456 then .ok (.car (immAt 27 w 0))
  else if op = 460 then .ok (.caa (immAt 27 w 0))
  else .error .unassigned

/-- The 54-bit instructions, by the 7-bit opcode (30_encoding.md R114). -/
def decode54 (w : Nat) : Except DecodeError Instr :=
  match w / 2 ^ 47 with
  | 84 => decodeLS w .lds
  | 85 => decodeLS w .ldw
  | 86 => decodeLS w .ldt
  | 88 => decodeLS w .sts
  | 89 => decodeLS w .stw
  | 90 => decodeLS w .stt
  | _ => .error .unassigned

/-- The instruction that a word of `len` bytes is. -/
def decodeWord (t : CondTable) (len w : Nat) : Except DecodeError Instr :=
  match len with
  | 2 => decode18 t w
  | 3 => decode27 t w
  | 4 => decode36 w
  | 6 => decode54 w
  | _ => .error .noLength

/-- The instruction at the front of a list of bytes in memory order, and the bytes after it: the length is read from the
first two bytes (30_encoding.md R102), then the whole word is matched (R120). The settings give `FetchOrder` and
`CondTable`. -/
def decode (p : Settings) (bytes : List Byte) : Except DecodeError (Instr × List Byte) :=
  if bytes.length < 2 then .error .truncated
  else
    match lengthOf (wordOfBytes p.fetchOrder (bytes.take 2)) with
    | none => .error .noLength
    | some len =>
      if bytes.length < len then .error .truncated
      else
        match decodeWord p.condTable len (wordOfBytes p.fetchOrder (bytes.take len)) with
        | .error e => .error e
        | .ok i => .ok (i, bytes.drop len)

/-- The instruction the decoder reads from an opcode-table word: `w` numbered with its last figure bit as bit 0, in the
length of `nbits` rounded to the machine's 9-bit bytes; `none` where the decoder refuses. The bytes are laid out as memory holds them
and given to `decode`, under the default settings. -/
def decodeTableWord (nbits w : Nat) : Option Instr :=
  let len := if nbits ≤ 24 then 2 else if nbits ≤ 32 then 3 else if nbits ≤ 48 then 4 else 6
  match decode .default (bytesOfWord .default len w) with
  | .ok (i, []) => some i
  | _ => none

/-! ## The encoder -/

/-- Format R3 (30_encoding.md R103). -/
def packR3 (op k : Nat) (rA rB rC : RegNo) (uf : Bool) : Nat :=
  op * 2 ^ 20 + rA.val * 2 ^ 15 + rB.val * 2 ^ 10 + rC.val * 2 ^ 5 + k * 2 + uf.toNat

/-- Format RI (30_encoding.md R104). -/
def packRI (op k : Nat) (rA rB : RegNo) (imm : BitVec 7) (uf : Bool) : Nat :=
  op * 2 ^ 20 + rA.val * 2 ^ 15 + rB.val * 2 ^ 10 + imm.toNat * 2 ^ 3 + k * 2 + uf.toNat

/-- Format MI (30_encoding.md R106). -/
def packMI (op : Nat) (rA : RegNo) (imm : BitVec 17) : Nat := op * 2 ^ 22 + rA.val * 2 ^ 17 + imm.toNat

/-- Format R1 (30_encoding.md R107). -/
def packR1 (op : Nat) (rA : RegNo) : Nat := op * 2 ^ 6 + rA.val * 2

/-- Format R2X (30_encoding.md R109). -/
def packR2X (op : Nat) (rA rB : RegNo) : Nat := op * 2 ^ 15 + rA.val * 2 ^ 10 + rB.val * 2 ^ 5

/-- Format R2C (30_encoding.md R110). -/
def packR2C (op : Nat) (rA rB : RegNo) : Nat := op * 2 ^ 18 + rA.val * 2 ^ 13 + rB.val * 2 ^ 8

/-- Format R2U (30_encoding.md R111); R1U is the same with rB = 0 (R112). -/
def packR2U (op fn : Nat) (rA rB : RegNo) (uf : Bool) : Nat :=
  op * 2 ^ 18 + rA.val * 2 ^ 13 + rB.val * 2 ^ 8 + fn * 2 + uf.toNat

/-- Format LS (30_encoding.md R114). -/
def packLS (op : Nat) (rA rB : RegNo) (count : Fin 32) (mode : Fin 4) (offset : BitVec 27) : Nat :=
  op * 2 ^ 47 + rA.val * 2 ^ 42 + rB.val * 2 ^ 37 + count.val * 2 ^ 32 + mode.val * 2 ^ 30 + offset.toNat * 2 ^ 3

/-- Format CR2 (30_encoding.md R115). -/
def packCR2 (op : Nat) (rA rB : RegNo) : Nat := op * 2 ^ 10 + rA.val * 2 ^ 5 + rB.val

/-- Format CI (30_encoding.md R115). -/
def packCI (op : Nat) (rA : RegNo) (imm : BitVec 14) : Nat := op * 2 ^ 19 + rA.val * 2 ^ 14 + imm.toNat

/-- Format BO (30_encoding.md R116). -/
def packBO (op : Nat) (cond : Fin 16) (offset : BitVec 17) : Nat := op * 2 ^ 21 + cond.val * 2 ^ 17 + offset.toNat

/-- Format BR (30_encoding.md R116). -/
def packBR (op : Nat) (cond : Fin 16) (rA : RegNo) : Nat := op * 2 ^ 12 + cond.val * 2 ^ 8 + rA.val * 2 ^ 3

/-- Format A36 (30_encoding.md R117). -/
def packA36 (op : Nat) (location : BitVec 27) : Nat := op * 2 ^ 27 + location.toNat

/-- The length of an instruction in bytes (30_encoding.md R101). -/
def Instr.len (i : Instr) : Nat :=
  match i with
  | .ad _ _ _ _ => 3
  | .adi _ _ _ _ => 3
  | .adm _ _ _ _ => 3
  | .adim _ _ _ _ => 3
  | .adc _ _ _ _ => 3
  | .adci _ _ _ _ => 3
  | .adcm _ _ _ _ => 3
  | .adcim _ _ _ _ => 3
  | .sb _ _ _ _ => 3
  | .sbi _ _ _ _ => 3
  | .sbm _ _ _ _ => 3
  | .sbim _ _ _ _ => 3
  | .sbc _ _ _ _ => 3
  | .sbci _ _ _ _ => 3
  | .sbcm _ _ _ _ => 3
  | .sbcim _ _ _ _ => 3
  | .mu _ _ _ _ => 3
  | .mui _ _ _ _ => 3
  | .mum _ _ _ _ => 3
  | .muim _ _ _ _ => 3
  | .mus _ _ _ _ => 3
  | .muis _ _ _ _ => 3
  | .musm _ _ _ _ => 3
  | .muism _ _ _ _ => 3
  | .dv _ _ _ _ => 3
  | .dvi _ _ _ _ => 3
  | .dvm _ _ _ _ => 3
  | .dvim _ _ _ _ => 3
  | .dvs _ _ _ _ => 3
  | .dvis _ _ _ _ => 3
  | .dvsm _ _ _ _ => 3
  | .dvism _ _ _ _ => 3
  | .md _ _ _ _ => 3
  | .mdi _ _ _ _ => 3
  | .mdm _ _ _ _ => 3
  | .mdim _ _ _ _ => 3
  | .mds _ _ _ _ => 3
  | .mdis _ _ _ _ => 3
  | .mdsm _ _ _ _ => 3
  | .mdism _ _ _ _ => 3
  | .an _ _ _ _ => 3
  | .ani _ _ _ _ => 3
  | .anm _ _ _ _ => 3
  | .or _ _ _ _ => 3
  | .ori _ _ _ _ => 3
  | .orm _ _ _ _ => 3
  | .xr _ _ _ _ => 3
  | .xri _ _ _ _ => 3
  | .xrm _ _ _ _ => 3
  | .bf _ _ _ => 3
  | .bfm _ _ _ => 3
  | .ng _ _ _ => 3
  | .ngm _ _ _ => 3
  | .nt _ _ _ => 3
  | .ntm _ _ _ => 3
  | .sl _ _ _ _ => 3
  | .sli _ _ _ _ => 3
  | .slm _ _ _ _ => 3
  | .slim _ _ _ _ => 3
  | .sr _ _ _ _ => 3
  | .sri _ _ _ _ => 3
  | .srm _ _ _ _ => 3
  | .srim _ _ _ _ => 3
  | .sa _ _ _ _ => 3
  | .sai _ _ _ _ => 3
  | .sam _ _ _ _ => 3
  | .saim _ _ _ _ => 3
  | .rl _ _ _ _ => 3
  | .rli _ _ _ _ => 3
  | .rlm _ _ _ _ => 3
  | .rlim _ _ _ _ => 3
  | .rr _ _ _ _ => 3
  | .rri _ _ _ _ => 3
  | .rrm _ _ _ _ => 3
  | .rrim _ _ _ _ => 3
  | .mh _ _ => 3
  | .ml _ _ => 3
  | .ms _ _ => 3
  | .ses _ _ => 3
  | .sew _ _ => 3
  | .zes _ _ => 3
  | .zew _ _ => 3
  | .rnd _ _ => 3
  | .rndm _ _ => 3
  | .cm _ _ => 2
  | .cmi _ _ => 3
  | .cmm _ _ => 2
  | .cmim _ _ => 3
  | .b _ _ => 3
  | .br _ _ => 2
  | .bra _ => 4
  | .brr _ => 4
  | .c _ _ => 3
  | .cr _ _ => 2
  | .caa _ => 4
  | .car _ => 4
  | .re => 2
  | .lds _ _ _ _ _ => 6
  | .ldw _ _ _ _ _ => 6
  | .ldt _ _ _ _ _ => 6
  | .sts _ _ _ _ _ => 6
  | .stw _ _ _ _ _ => 6
  | .stt _ _ _ _ _ => 6
  | .dmt _ _ _ => 3
  | .adf _ _ _ _ => 3
  | .adfm _ _ _ _ => 3
  | .sbf _ _ _ _ => 3
  | .sbfm _ _ _ _ => 3
  | .muf _ _ _ _ => 3
  | .mufm _ _ _ _ => 3
  | .dvf _ _ _ _ => 3
  | .dvfm _ _ _ _ => 3
  | .mdf _ _ _ _ => 3
  | .mdfm _ _ _ _ => 3
  | .cmf _ _ => 2
  | .cmfm _ _ => 2
  | .ngf _ _ _ => 3
  | .ngfm _ _ _ => 3
  | .itf _ _ => 3
  | .itfm _ _ => 3
  | .fti _ _ => 3
  | .ftim _ _ => 3
  | .ei _ => 2
  | .di _ => 2
  | .ht => 2
  | .ir => 2
  | .rf _ => 2
  | .sf _ => 2
  | .smp _ _ _ => 3
  | .rmp _ _ => 3
  | .wt => 2
  | .dbrk => 2

/-- The instruction word (30_encoding.md R120). -/
def encodeWord (i : Instr) : Nat :=
  match i with
  | .ad rA rB rC uf => packR3 0 0 rA rB rC uf
  | .adi rA rB imm uf => packRI 0 1 rA rB imm uf
  | .adm rA rB rC uf => packR3 2 0 rA rB rC uf
  | .adim rA rB imm uf => packRI 2 1 rA rB imm uf
  | .adc rA rB rC uf => packR3 32 0 rA rB rC uf
  | .adci rA rB imm uf => packRI 32 1 rA rB imm uf
  | .adcm rA rB rC uf => packR3 34 0 rA rB rC uf
  | .adcim rA rB imm uf => packRI 34 1 rA rB imm uf
  | .sb rA rB rC uf => packR3 4 0 rA rB rC uf
  | .sbi rA rB imm uf => packRI 4 1 rA rB imm uf
  | .sbm rA rB rC uf => packR3 6 0 rA rB rC uf
  | .sbim rA rB imm uf => packRI 6 1 rA rB imm uf
  | .sbc rA rB rC uf => packR3 36 0 rA rB rC uf
  | .sbci rA rB imm uf => packRI 36 1 rA rB imm uf
  | .sbcm rA rB rC uf => packR3 38 0 rA rB rC uf
  | .sbcim rA rB imm uf => packRI 38 1 rA rB imm uf
  | .mu rA rB rC uf => packR3 8 0 rA rB rC uf
  | .mui rA rB imm uf => packRI 8 1 rA rB imm uf
  | .mum rA rB rC uf => packR3 10 0 rA rB rC uf
  | .muim rA rB imm uf => packRI 10 1 rA rB imm uf
  | .mus rA rB rC uf => packR3 8 2 rA rB rC uf
  | .muis rA rB imm uf => packRI 8 3 rA rB imm uf
  | .musm rA rB rC uf => packR3 10 2 rA rB rC uf
  | .muism rA rB imm uf => packRI 10 3 rA rB imm uf
  | .dv rA rB rC uf => packR3 12 0 rA rB rC uf
  | .dvi rA rB imm uf => packRI 12 1 rA rB imm uf
  | .dvm rA rB rC uf => packR3 14 0 rA rB rC uf
  | .dvim rA rB imm uf => packRI 14 1 rA rB imm uf
  | .dvs rA rB rC uf => packR3 12 2 rA rB rC uf
  | .dvis rA rB imm uf => packRI 12 3 rA rB imm uf
  | .dvsm rA rB rC uf => packR3 14 2 rA rB rC uf
  | .dvism rA rB imm uf => packRI 14 3 rA rB imm uf
  | .md rA rB rC uf => packR3 16 0 rA rB rC uf
  | .mdi rA rB imm uf => packRI 16 1 rA rB imm uf
  | .mdm rA rB rC uf => packR3 18 0 rA rB rC uf
  | .mdim rA rB imm uf => packRI 18 1 rA rB imm uf
  | .mds rA rB rC uf => packR3 16 2 rA rB rC uf
  | .mdis rA rB imm uf => packRI 16 3 rA rB imm uf
  | .mdsm rA rB rC uf => packR3 18 2 rA rB rC uf
  | .mdism rA rB imm uf => packRI 18 3 rA rB imm uf
  | .an rA rB rC uf => packR3 20 0 rA rB rC uf
  | .ani rA rB imm uf => packRI 20 1 rA rB imm uf
  | .anm rA rB rC uf => packR3 22 0 rA rB rC uf
  | .or rA rB rC uf => packR3 24 0 rA rB rC uf
  | .ori rA rB imm uf => packRI 24 1 rA rB imm uf
  | .orm rA rB rC uf => packR3 26 0 rA rB rC uf
  | .xr rA rB rC uf => packR3 28 0 rA rB rC uf
  | .xri rA rB imm uf => packRI 28 1 rA rB imm uf
  | .xrm rA rB rC uf => packR3 30 0 rA rB rC uf
  | .bf rA rB uf => packR2U 332 64 rA rB uf
  | .bfm rA rB uf => packR2U 334 64 rA rB uf
  | .ng rA rB uf => packR2U 332 0 rA rB uf
  | .ngm rA rB uf => packR2U 334 0 rA rB uf
  | .nt rA rB uf => packR2U 332 32 rA rB uf
  | .ntm rA rB uf => packR2U 334 32 rA rB uf
  | .sl rA rB rC uf => packR3 40 0 rA rB rC uf
  | .sli rA rB imm uf => packRI 56 0 rA rB imm uf
  | .slm rA rB rC uf => packR3 42 0 rA rB rC uf
  | .slim rA rB imm uf => packRI 58 0 rA rB imm uf
  | .sr rA rB rC uf => packR3 41 0 rA rB rC uf
  | .sri rA rB imm uf => packRI 57 0 rA rB imm uf
  | .srm rA rB rC uf => packR3 43 0 rA rB rC uf
  | .srim rA rB imm uf => packRI 59 0 rA rB imm uf
  | .sa rA rB rC uf => packR3 45 0 rA rB rC uf
  | .sai rA rB imm uf => packRI 61 0 rA rB imm uf
  | .sam rA rB rC uf => packR3 47 0 rA rB rC uf
  | .saim rA rB imm uf => packRI 63 0 rA rB imm uf
  | .rl rA rB rC uf => packR3 48 0 rA rB rC uf
  | .rli rA rB imm uf => packRI 64 0 rA rB imm uf
  | .rlm rA rB rC uf => packR3 50 0 rA rB rC uf
  | .rlim rA rB imm uf => packRI 66 0 rA rB imm uf
  | .rr rA rB rC uf => packR3 49 0 rA rB rC uf
  | .rri rA rB imm uf => packRI 65 0 rA rB imm uf
  | .rrm rA rB rC uf => packR3 51 0 rA rB rC uf
  | .rrim rA rB imm uf => packRI 67 0 rA rB imm uf
  | .mh rA imm => packMI 17 rA imm
  | .ml rA imm => packMI 18 rA imm
  | .ms rA imm => packMI 19 rA imm
  | .ses rA rB => packR2X 2567 rA rB
  | .sew rA rB => packR2X 2568 rA rB
  | .zes rA rB => packR2X 2569 rA rB
  | .zew rA rB => packR2X 2570 rA rB
  | .rnd rA uf => packR2U 332 96 rA 0 uf
  | .rndm rA uf => packR2U 334 96 rA 0 uf
  | .cm rA rB => packCR2 184 rA rB
  | .cmi rA imm => packCI 185 rA imm
  | .cmm rA rB => packCR2 188 rA rB
  | .cmim rA imm => packCI 189 rA imm
  | .b cond offset => packBO 48 cond offset
  | .br cond rA => packBR 50 cond rA
  | .bra location => packA36 452 location
  | .brr offset => packA36 448 offset
  | .c cond offset => packBO 53 cond offset
  | .cr cond rA => packBR 55 cond rA
  | .caa location => packA36 460 location
  | .car offset => packA36 456 offset
  | .re => 163840
  | .lds rA rB count mode offset => packLS 84 rA rB count mode offset
  | .ldw rA rB count mode offset => packLS 85 rA rB count mode offset
  | .ldt rA rB count mode offset => packLS 86 rA rB count mode offset
  | .sts rA rB count mode offset => packLS 88 rA rB count mode offset
  | .stw rA rB count mode offset => packLS 89 rA rB count mode offset
  | .stt rA rB count mode offset => packLS 90 rA rB count mode offset
  | .dmt rA rB rC => packR3 52 0 rA rB rC false
  | .adf rA rB rC uf => packR3 1 0 rA rB rC uf
  | .adfm rA rB rC uf => packR3 3 0 rA rB rC uf
  | .sbf rA rB rC uf => packR3 5 0 rA rB rC uf
  | .sbfm rA rB rC uf => packR3 7 0 rA rB rC uf
  | .muf rA rB rC uf => packR3 9 0 rA rB rC uf
  | .mufm rA rB rC uf => packR3 11 0 rA rB rC uf
  | .dvf rA rB rC uf => packR3 13 0 rA rB rC uf
  | .dvfm rA rB rC uf => packR3 15 0 rA rB rC uf
  | .mdf rA rB rC uf => packR3 17 0 rA rB rC uf
  | .mdfm rA rB rC uf => packR3 19 0 rA rB rC uf
  | .cmf rA rB => packCR2 186 rA rB
  | .cmfm rA rB => packCR2 190 rA rB
  | .ngf rA rB uf => packR2U 333 0 rA rB uf
  | .ngfm rA rB uf => packR2U 335 0 rA rB uf
  | .itf rA rB => packR2C 324 rA rB
  | .itfm rA rB => packR2C 326 rA rB
  | .fti rA rB => packR2C 325 rA rB
  | .ftim rA rB => packR2C 327 rA rB
  | .ei rA => packR1 2564 rA
  | .di rA => packR1 2565 rA
  | .ht => 164032
  | .ir => 163904
  | .rf rA => packR1 2572 rA
  | .sf rA => packR1 2571 rA
  | .smp rA rB prot => 82 * 2 ^ 20 + rA.val * 2 ^ 15 + rB.val * 2 ^ 10 + 2 ^ 9 + prot.toNat * 2 ^ 7
  | .rmp rA rB => 82 * 2 ^ 20 + rA.val * 2 ^ 15 + rB.val * 2 ^ 10
  | .wt => 163968
  | .dbrk => 262143

/-- The bytes of an instruction in memory order. -/
def encode (o : FetchOrder) (i : Instr) : List Byte := bytesOfWord o i.len (encodeWord i)

end Sys2Proof
end

