-- ==== Sys2Proof/Machine/State.lean ====
section
/-! DEFINITION. The state of the machine as plain data, the reasons a step can stop, and the state after reset. -/

namespace Sys2Proof.Machine

/-- The run states of 00_scope.md R18. -/
inductive RunState where
  | running
  | waiting
  | halted
  | faulted
deriving DecidableEq, Repr

/-- Memory: the bytes that hold a value, as (address, byte) pairs with strictly rising addresses
(20_memory.md R60; the byte has 9 bits, log 1). -/
abbrev Memory := List (Nat × Byte)

/-- The page protection table: (page number, value) pairs with strictly rising pages, none at the value an unlisted page
has (20_memory.md R70). -/
abbrev ProtTable := List (Nat × Prot)

/-- A set of addresses, strictly rising. -/
abbrev AddrSet := List (Nat × Unit)

/-- Why a step stops with a model fault. Both are safe: the machine the spec describes gives such a run no result. -/
inductive Fault where
  /-- A read, a fetch or a copy of a byte of plain memory that nothing has written
  (70_reset_and_hazards.md R600). Raised by the memory reads of Machine/Ops.lean. Safe. -/
  | unwrittenByte (a : Addr)
  /-- A step of a core that is Faulted: no further instruction executes (60_exceptions.md R512). Raised by the boundary
  of Machine/Fetch.lean. Safe. -/
  | coreFaulted
deriving DecidableEq, Repr

/-- Why a step is refused. All are safe: the spec gives no meaning there. -/
inductive Refusal where
  /-- The instruction has no meaning in this model yet. Raised by an arm of Machine/Dispatch.lean. Safe. -/
  | notModelled (mnemonic : String)
  /-- A write to R31, the program counter, by an instruction that is no control transfer, load or IR
  (10_state.md R25 (d), (e), (f)). Raised by the register write-back of Machine/Operands.lean and by the stores. Safe. -/
  | writeToR31
  /-- An access to a device range, whose behaviour is in no source (20_memory.md R68). Raised by the memory accesses of
  Machine/Ops.lean. Safe. -/
  | deviceAccess (region : Region) (a : Addr)
  /-- An access to an unmapped address (20_memory.md R68). Raised by the memory accesses of Machine/Ops.lean. Safe. -/
  | unmappedAccess (a : Addr)
  /-- With `FetchCoherent = false`, a fetch of a byte stored since the program was loaded (20_memory.md R79). Raised by the
  memory reads of Machine/Ops.lean. Safe. -/
  | staleFetch (a : Addr)
deriving DecidableEq, Repr

/-- Everything the spec gives the machine (INVENTORY.md, State). -/
structure State where
  /-- R0 to R31 (10_state.md R20). The settings say which of them are ST, RA, FLAGS and the program counter (R21): by default
  R28, R29, R30 (R26) and R31 (R24), the address of the executing instruction. -/
  regs : Vector Word 32
  /-- Memory (10_state.md R38). -/
  mem : Memory
  /-- The bytes of memory stored since the program was loaded, which `FetchCoherent = false` asks for (20_memory.md R79;
  log 57). -/
  stored : AddrSet
  /-- The page protection table (10_state.md R39). -/
  prot : ProtTable
  /-- The pending interrupts, bit i for number i (10_state.md R40 (a)). -/
  pending : IntMask
  /-- The run state (10_state.md R40 (b)). -/
  runState : RunState
  /-- The parameters of the machine, constant during a run (00_scope.md R7; `StackDirectionFlag`: 10_state.md R40 (c)). -/
  settings : Settings
  /-- The model's own: the interrupts that external agents make pending at the coming instruction boundaries, one mask for
  each (60_exceptions.md R503; log 21). -/
  arrivals : List IntMask
  /-- The model's own: how many times a free value has been drawn (00_scope.md R13; log 2). -/
  draws : Nat
deriving DecidableEq, Repr

/-- What the outside world fixes before a run (70_reset_and_hazards.md R602, R603): the parameters, and with `resetPC`,
`registers` and `prot` the three that speak of reset only, `ResetPC`, `UnwrittenRegs` and `InitProt` (00_scope.md R7). -/
structure Launch where
  settings : Settings
  /-- `ResetPC`: the program counter after reset. -/
  resetPC : Addr
  /-- What R0 to R31 hold that are neither FLAGS nor the program counter (log 3). -/
  registers : Vector Word 32
  /-- The program image and the initial memory, in canonical form. -/
  mem : Memory
  /-- `InitProt`: the protection of every page, in canonical form (log 4). -/
  prot : ProtTable
  /-- The coming external events (log 21). -/
  arrivals : List IntMask
deriving DecidableEq, Repr

/-- The machine right after reset under a launch configuration (10_state.md R41, 70_reset_and_hazards.md R600): FLAGS is 0,
nothing is pending, the core is Running. -/
def State.launch (c : Launch) : State where
  regs := (c.registers.set c.settings.specialRegs.fl.val 0#27).set c.settings.specialRegs.pc.val c.resetPC
  mem := c.mem
  stored := []
  prot := c.prot
  pending := 0#9
  runState := .running
  settings := c.settings
  arrivals := c.arrivals
  draws := 0

/-- The defaults of 00_scope.md R7, with `UnwrittenRegs = zero` (DESIGN CHOICE, log 3), no page allowing an access (DESIGN
CHOICE, log 4) and no program. -/
def Launch.default : Launch where
  settings := .default
  resetPC := 0#27
  registers := Vector.replicate 32 0#27
  mem := []
  prot := []
  arrivals := []

/-- The machine right after reset (10_state.md R41, 70_reset_and_hazards.md R600). -/
def State.reset : State := State.launch .default

end Sys2Proof.Machine
end

