-- ==== Sys2Proof/Machine/Registers.lean ====
section
/-! DEFINITION. The register file: reading, writing, and the registers with a fixed role. -/

namespace Sys2Proof.Machine

/-! ## The registers with a fixed role (10_state.md R21, `SpecialRegs`; log 6) -/

/-- The number of ST, by default 28. -/
def State.stReg (s : State) : RegNo := s.settings.specialRegs.st

/-- The number of RA, by default 29. -/
def State.raReg (s : State) : RegNo := s.settings.specialRegs.ra

/-- The number of FLAGS, by default 30. -/
def State.flagsReg (s : State) : RegNo := s.settings.specialRegs.fl

/-- The number of the program counter, by default 31. -/
def State.pcReg (s : State) : RegNo := s.settings.specialRegs.pc

/-! ## Reading and writing (10_state.md R20 to R25) -/

/-- `x[r]`: the program counter reads the address of the executing instruction (10_state.md R24). -/
def State.x (s : State) (r : RegNo) : Word := s.regs[r.val]

/-- Put a value in a register, whatever its role. -/
def State.put (s : State) (r : RegNo) (v : Word) : State := { s with regs := s.regs.set r.val v }

/-- FLAGS (10_state.md R26). -/
def State.flags (s : State) : Word := s.x s.flagsReg

/-- The program counter (10_state.md R24). -/
def State.pc (s : State) : Addr := s.x s.pcReg

/-- Write FLAGS whole. -/
def State.setFlags (s : State) (v : Word) : State := s.put s.flagsReg v

/-- Continue at an address. -/
def State.jump (s : State) (target : Addr) : State := s.put s.pcReg target

/-- Move to the instruction `len` bytes on (10_state.md R24). -/
def State.advance (s : State) (len : Nat) : State := s.jump (s.pc + BitVec.ofNat 27 len)

/-- `x[r] <- v` by an instruction. A write to the program counter changes nothing: the loads discard it (10_state.md R25 (c)),
and every instruction for which the spec gives such a write no meaning refuses it before (R25 (d) to (f)). -/
def State.setX (s : State) (r : RegNo) (v : Word) : State := if r = s.pcReg then s else s.put r v

/-- `xx[r]`: the pair, register r high (10_state.md R23; log 10). -/
def State.xx (s : State) (r : RegNo) : Pair := s.x r ++ s.x (r + 1)

/-- `xx[r] <- v`: the high half to register r, then the low half to the next (10_state.md R23). -/
def State.setXX (s : State) (r : RegNo) (v : Pair) : State :=
  (s.setX r (v.extractLsb' 27 27)).setX (r + 1) (v.setWidth 27)

/-- Count `k` free values as drawn (log 2). -/
def State.drew (s : State) (k : Nat) : State := { s with draws := s.draws + k }

end Sys2Proof.Machine
end

