-- ==== Sys2Proof/Machine/Flags.lean ====
section
/-! DEFINITION. FLAGS: its bits, every flag computation the spec gives, and the condition table. -/

namespace Sys2Proof.Machine

/-! ## The bits of FLAGS (10_state.md R26, `FlagBits`; log 7) -/

/-- The bit of the enable of interrupt `n` (10_state.md R29). -/
def ieBit (n : IntNo) : Nat := 4 + n.val

/-- A word with one bit replaced. -/
def setBit (w : Word) (i : Nat) (b : Bool) : Word :=
  if b then w ||| BitVec.twoPow 27 i else w &&& ~~~(BitVec.twoPow 27 i)

/-- The zero flag. -/
def State.z (s : State) : Bool := s.flags.getLsbD s.settings.flagBits.z.val

/-- The carry flag, the source's Carry_Bit (10_state.md R28). -/
def State.c (s : State) : Bool := s.flags.getLsbD s.settings.flagBits.c.val

/-- The overflow flag. -/
def State.o (s : State) : Bool := s.flags.getLsbD s.settings.flagBits.o.val

/-- The signed flag. -/
def State.sg (s : State) : Bool := s.flags.getLsbD s.settings.flagBits.s.val

/-- Interrupt `n` is enabled (60_exceptions.md R502). -/
def State.enabled (s : State) (n : IntNo) : Bool := s.flags.getLsbD (ieBit n)

/-! ## What an instruction writes to FLAGS (10_state.md R27) -/

/-- The flag bits an instruction writes, and their values; every other bit is kept. -/
inductive FlagUpdate where
  | keep
  | all (z c o s : Bool)
  | zeroSigned (z s : Bool)
  | zero (z : Bool)
deriving DecidableEq, Repr

/-- FLAGS after the update, the status flags lying where `FlagBits` says. -/
def FlagUpdate.apply (u : FlagUpdate) (p : FlagBits) (f : Word) : Word :=
  match u with
  | .keep => f
  | .all z c o s => setBit (setBit (setBit (setBit f p.z z) p.c c) p.o o) p.s s
  | .zeroSigned z s => setBit (setBit f p.z z) p.s s
  | .zero z => setBit f p.z z

/-- Write FLAGS as the update says. -/
def State.updateFlags (s : State) (u : FlagUpdate) : State := s.setFlags (u.apply s.settings.flagBits s.flags)

/-- The update of an instruction with a UF field: nothing is written when UF is 0 (10_state.md R30; log 8). -/
def whenUF (uf : Bool) (u : FlagUpdate) : FlagUpdate := if uf then u else .keep

/-! ## Add (40_add_subtract.md R201) -/

/-- The sum one bit wider than the operands. -/
def addWide {n : Nat} (a b : BitVec n) (c : Bool) : BitVec (n + 1) :=
  a.setWidth (n + 1) + b.setWidth (n + 1) + (BitVec.ofBool c).setWidth (n + 1)

/-- The N-bit sum. -/
def addResult {n : Nat} (a b : BitVec n) (c : Bool) : BitVec n := (addWide a b c).setWidth n

/-- The flags of an add form: C is the carry out, O the signed overflow. -/
def addFlags {n : Nat} (a b : BitVec n) (c : Bool) : FlagUpdate :=
  let r := addResult a b c
  .all (r == 0#n) ((addWide a b c).getLsbD n) ((a.msb == b.msb) && (r.msb != a.msb)) r.msb

/-! ## Subtract and compare (40_add_subtract.md R201, 45_compare.md R320) -/

/-- The difference one bit wider than the operands. -/
def subWide {n : Nat} (a b : BitVec n) (c : Bool) : BitVec (n + 1) :=
  a.setWidth (n + 1) - b.setWidth (n + 1) - (BitVec.ofBool c).setWidth (n + 1)

/-- The N-bit difference. -/
def subResult {n : Nat} (a b : BitVec n) (c : Bool) : BitVec n := (subWide a b c).setWidth n

/-- The overflow flag of a difference with sign bit `t`, under `SubOverflow`: the printed formula compares the sign of the
difference with the sign of the minuend; the standard one asks also that the operands' signs differ (log 13). -/
def subOverflowFlag (p : SubOverflow) (a b t : Bool) : Bool :=
  match p with
  | .source => t != a
  | .standard => (a != b) && (t != a)

/-- The flags of a subtract form: Z from the N-bit result, C the borrow. -/
def subFlags {n : Nat} (p : SubOverflow) (a b : BitVec n) (c : Bool) : FlagUpdate :=
  let t := subWide a b c
  .all (subResult a b c == 0#n) (t.getLsbD n) (subOverflowFlag p a.msb b.msb (t.getLsbD (n - 1))) (t.getLsbD (n - 1))

/-- The flags of a compare: the same with no carry, and Z from the whole N+1-bit difference (45_compare.md R321). -/
def compareFlags {n : Nat} (p : SubOverflow) (a b : BitVec n) : FlagUpdate :=
  let t := subWide a b false
  .all (t == 0#(n + 1)) (t.getLsbD n) (subOverflowFlag p a.msb b.msb (t.getLsbD (n - 1))) (t.getLsbD (n - 1))

/-! ## Every other operation (00_scope.md R14, `FlagCO`; log 9) -/

/-- C and O after an operation with no formula for them: drawn bits, or the function of the parameter. -/
def coOf (p : FlagCO) (op : FlagOp) {n : Nat} (a b r : BitVec n) (d : Nat) : Bool × Bool :=
  match p with
  | .draw => (Config.drawC d, Config.drawO d)
  | .function => Config.flagCO op n a b r

/-- How many times `coOf` draws. -/
def coDraws (p : FlagCO) : Nat :=
  match p with
  | .draw => 1
  | .function => 0

/-- Z and S from an N-bit result, C and O given (41 R221, 42 R250, 43 R271, 44 R300). -/
def resultFlags {n : Nat} (r : BitVec n) (co : Bool × Bool) : FlagUpdate := .all (r == 0#n) co.1 co.2 r.msb

/-- Z and S of a floating-point result, C and O given (48_float.md R371 (a)). -/
def floatFlags {n : Nat} (r : BitVec n) (co : Bool × Bool) : FlagUpdate :=
  .all (Config.fzero n r) co.1 co.2 (Config.fltz n r)

/-- The flags of NGF and NGFM: Z and S only (48_float.md R371 (b)). -/
def floatNegateFlags {n : Nat} (r : BitVec n) : FlagUpdate :=
  .zeroSigned (Config.fzero n r) (Config.fltz n r)

/-- The flags of CMF and CMFM: C is always 0 (48_float.md R371 (c), R382). -/
def floatCompareFlags {n : Nat} (a b : BitVec n) : FlagUpdate :=
  let t := Config.fsub n a b
  .all (Config.fzero n t) false (Config.fltz n t != Config.fltz n a) (Config.fltz n t)

/-- All four flags drawn (`NoUFFlagPolicy = draw`, 10_state.md R31). -/
def drawnFlags (d : Nat) : FlagUpdate :=
  .all (Config.drawZ d) (Config.drawC d) (Config.drawO d) (Config.drawS d)

/-- The update of an instruction that lists flags and has no UF field; `u` is what `always` writes (10_state.md R31;
log 12). -/
def noUFFlags (p : NoUFFlagPolicy) (u : FlagUpdate) (d : Nat) : FlagUpdate :=
  match p with
  | .always => u
  | .never => .keep
  | .draw => drawnFlags d

/-! ## The condition table (46_branch_call.md R330, `CondTable`; log 14) -/

/-- Does the predicate hold of the flags? -/
def evalTest (t : FlagTest) (z c o s : Bool) : Bool :=
  match t with
  | .always => true
  | .z => z
  | .c => c
  | .o => o
  | .s => s
  | .not u => !evalTest u z c o s
  | .and u v => evalTest u z c o s && evalTest v z c o s
  | .or u v => evalTest u z c o s || evalTest v z c o s
  | .xor u v => evalTest u z c o s != evalTest v z c o s

/-- The predicate of a Condition value, none where the value is invalid. -/
def State.condRow (s : State) (cond : Fin 16) : Option FlagTest := s.settings.condTable[cond.val]

/-- The predicate holds of the machine's flags. -/
def State.passes (s : State) (t : FlagTest) : Bool := evalTest t s.z s.c s.o s.sg

end Sys2Proof.Machine
end

