-- ==== Sys2Proof/Machine/Ops.lean ====
section
/-! DEFINITION. The named operations over memory and page protection, taking an exception, and the return from one. -/

namespace Sys2Proof.Machine

/-! ## Sparse tables: lists of (key, value) with strictly rising keys and no entry at the default value -/

/-- The listed value at a key. -/
def tableFind {V : Type} : List (Nat × V) → Nat → Option V
  | [], _ => none
  | (k, v) :: l, a => if a = k then some v else tableFind l a

/-- Remove the entry at a key. -/
def tableErase {V : Type} : List (Nat × V) → Nat → List (Nat × V)
  | [], _ => []
  | (k, v) :: l, a => if a = k then l else (k, v) :: tableErase l a

/-- Put an entry at its place. -/
def tableInsert {V : Type} : List (Nat × V) → Nat → V → List (Nat × V)
  | [], a, b => [(a, b)]
  | (k, v) :: l, a, b =>
    if a < k then (a, b) :: (k, v) :: l
    else if a = k then (a, b) :: l
    else (k, v) :: tableInsert l a b

/-- Write a value at a key: the value an unlisted key has is not listed. -/
def tableSet {V : Type} [DecidableEq V] (unlisted : Option V) (l : List (Nat × V)) (a : Nat) (b : V) : List (Nat × V) :=
  if some b = unlisted then tableErase l a else tableInsert l a b

/-- Write one value at the `n` keys from `a`. -/
def tableSetRange {V : Type} [DecidableEq V] (unlisted : Option V) (l : List (Nat × V)) (a n : Nat) (b : V) :
    List (Nat × V) :=
  l.filter (fun e => decide (e.1 < a)) ++
    ((if some b = unlisted then [] else (List.range' a n).map (fun k => (k, b))) ++
      l.filter (fun e => decide (a + n ≤ e.1)))

/-- The canonical form: keys strictly rising, none at or above `bound`, no entry at the unlisted value. -/
abbrev TableWf {V : Type} [DecidableEq V] (unlisted : Option V) (bound : Nat) (l : List (Nat × V)) : Prop :=
  l.Pairwise (fun e f => e.1 < f.1) ∧ ∀ e ∈ l, e.1 < bound ∧ some e.2 ≠ unlisted

/-! ## Memory cells -/

/-- What a byte of memory that nothing has written reads as: no value (70_reset_and_hazards.md R600; log 5). -/
def unlistedByte : Option Byte := none

/-- The byte at an address, if it has a value. -/
def Memory.byteAt (m : Memory) (a : Addr) : Option Byte := (tableFind m a.toNat).or unlistedByte

/-- Memory with one byte written. -/
def Memory.withByte (m : Memory) (a : Addr) (b : Byte) : Memory := tableSet unlistedByte m a.toNat b

/-- Memory is in its canonical form. -/
abbrev Memory.wf (m : Memory) : Prop := TableWf unlistedByte (2 ^ 27) m

/-! ## Page protection (20_memory.md R70 to R72) -/

/-- The protection value of a page that the table does not list (log 4). -/
def unlistedProt : Prot := 0#2

/-- The number of pages (20_memory.md R70). -/
def pageCount : Nat := 2 ^ 17

/-- The page of an address: 1024 bytes each (20_memory.md R70). -/
def pageOf (a : Addr) : Nat := a.toNat / 1024

/-- The protection value of a page. -/
def ProtTable.ofPage (t : ProtTable) (page : Nat) : Prot := (tableFind t page).getD unlistedProt

/-- The table with one value at `n` pages from `page`. -/
def ProtTable.withRange (t : ProtTable) (page n : Nat) (v : Prot) : ProtTable :=
  tableSetRange (some unlistedProt) t page n v

/-- The protection table is in its canonical form. -/
abbrev ProtTable.wf (t : ProtTable) : Prop := TableWf (some unlistedProt) pageCount t

/-- The table with one value at every page: a launch configuration's `InitProt` where it is uniform. -/
def ProtTable.uniform (v : Prot) : ProtTable := ProtTable.withRange [] 0 pageCount v

/-- The kinds of access a protection value allows or forbids (20_memory.md R71). -/
inductive AccessKind where
  | read
  | write
  | fetch
deriving DecidableEq, Repr

/-- `Perm`: does the protection value allow the access (20_memory.md R71; log 15)? -/
def permAllows (p : Perm) (v : Prot) (k : AccessKind) : Bool :=
  match k with
  | .read => p.read.getLsbD v.toNat
  | .write => p.write.getLsbD v.toNat
  | .fetch => p.fetch.getLsbD v.toNat

/-- The protection value of the page that holds an address. -/
def State.protAt (s : State) (a : Addr) : Prot := s.prot.ofPage (pageOf a)

/-- The page of the address allows the access. -/
def State.allows (s : State) (k : AccessKind) (a : Addr) : Bool := permAllows s.settings.perm (s.protAt a) k

/-! ## The address map (20_memory.md R68, `MemMap`; log 16) -/

/-- What the map says an address is: its first range that holds the address, else unmapped. -/
def regionOf (m : MemMap) (a : Addr) : Region :=
  match m.find? (fun r => decide (r.first ≤ a.toNat ∧ a.toNat ≤ r.last)) with
  | some r => r.region
  | none => .unmapped

/-- Main memory and the interrupt pointer table are plain memory (20_memory.md R68). -/
def isPlain (m : MemMap) (a : Addr) : Bool := regionOf m a == .memory || regionOf m a == .pointerTable

/-- The address is plain memory of the machine. -/
def State.plain (s : State) (a : Addr) : Bool := isPlain s.settings.memMap a

/-- The refusal of an access outside plain memory (20_memory.md R68; log 17). -/
def State.regionRefusal (s : State) (a : Addr) : Refusal :=
  let r := regionOf s.settings.memMap a
  if r = .unmapped then .unmappedAccess a else .deviceAccess r a

/-! ## Bytes stored since the program was loaded (20_memory.md R79, `FetchCoherent`; log 34) -/

/-- The address is in the set. -/
def AddrSet.has (l : AddrSet) (a : Addr) : Bool := (tableFind l a.toNat).isSome

/-- The set with one address more. -/
def AddrSet.add (l : AddrSet) (a : Addr) : AddrSet := tableInsert l a.toNat ()

/-- The set is in its canonical form. -/
abbrev AddrSet.wf (l : AddrSet) : Prop := TableWf none (2 ^ 27) l

/-- A fetch of the byte is refused: it was stored since the program was loaded, and fetches are not coherent with stores. -/
def State.stale (s : State) (k : AccessKind) (a : Addr) : Bool :=
  k == .fetch && !s.settings.fetchCoherent && s.stored.has a

/-! ## One-byte accesses (20_memory.md R61, R72) -/

/-- What an access that changes nothing answers: a value; an access the page protection forbids
(MemoryException, with the address and kind of 60_exceptions.md R508); a model fault; a refusal. -/
inductive Access (α : Type) where
  | ok (v : α)
  | denied (k : AccessKind) (a : Addr)
  | stopped (f : Fault)
  | refused (r : Refusal)
deriving DecidableEq, Repr

/-- Go on with the value. -/
def Access.bind {α β : Type} (x : Access α) (f : α → Access β) : Access β :=
  match x with
  | .ok v => f v
  | .denied k a => .denied k a
  | .stopped e => .stopped e
  | .refused r => .refused r

/-- What a sequence of accesses answers, with the state that its bytes so far have made: an exception keeps the partial
effects (47_load_store.md R350). -/
inductive Run where
  | done (s : State)
  | denied (k : AccessKind) (a : Addr) (s : State)
  | stopped (f : Fault)
  | refused (r : Refusal)
deriving DecidableEq, Repr

/-- Go on with the state. -/
def Run.andThen (x : Run) (f : State → Run) : Run :=
  match x with
  | .done s => f s
  | .denied k a s => .denied k a s
  | .stopped e => .stopped e
  | .refused r => .refused r

/-- A byte can be read with the access kind, and holds the value. -/
def State.Readable (s : State) (k : AccessKind) (a : Addr) (b : Byte) : Prop :=
  s.plain a = true ∧ s.allows k a = true ∧ s.stale k a = false ∧ s.mem.byteAt a = some b

/-- A byte can be written. -/
def State.Writable (s : State) (a : Addr) : Prop := s.plain a = true ∧ s.allows .write a = true

/-- Read one byte of plain memory for a load or a fetch (20_memory.md R72, R79). -/
def State.readByte (s : State) (k : AccessKind) (a : Addr) : Access Byte :=
  if s.plain a then
    if s.allows k a then
      if s.stale k a then .refused (.staleFetch a)
      else
        match s.mem.byteAt a with
        | some b => .ok b
        | none => .stopped (.unwrittenByte a)
    else .denied k a
  else .refused (s.regionRefusal a)

/-- Store one byte, with no check. -/
def State.putByte (s : State) (a : Addr) (b : Byte) : State :=
  { s with mem := s.mem.withByte a b, stored := s.stored.add a }

/-- Write one byte of plain memory (20_memory.md R72). -/
def State.writeByte (s : State) (a : Addr) (b : Byte) : Run :=
  if s.plain a then
    if s.allows .write a then .done (s.putByte a b) else .denied .write a s
  else .refused (s.regionRefusal a)

/-! ## Single, Word and Tri accesses (20_memory.md R61 to R64) -/

/-- The access sizes: one, two or three bytes (20_memory.md R61). -/
inductive Size where
  | single
  | word
  | tri
deriving DecidableEq, Repr

/-- The bytes of an access. -/
def Size.bytes (z : Size) : Nat :=
  match z with
  | .single => 1
  | .word => 2
  | .tri => 3

/-- The bytes that a value of the size is stored as, at ascending addresses: a Word high byte first (20_memory.md R63), a
Tri middle, high, low (R64). -/
def Size.split (z : Size) (v : Word) : List Byte :=
  match z with
  | .single => [v.extractLsb' 0 9]
  | .word => [v.extractLsb' 9 9, v.extractLsb' 0 9]
  | .tri => [v.extractLsb' 9 9, v.extractLsb' 18 9, v.extractLsb' 0 9]

/-- The value that bytes at ascending addresses make, zero-extended to 27 bits (20_memory.md R62 to R64). -/
def Size.join (z : Size) (l : List Byte) : Word :=
  match z, l with
  | .single, [a] => a.setWidth 27
  | .word, [a, b] => (a ++ b).setWidth 27
  | .tri, [a, b, c] => (b ++ a ++ c).setWidth 27
  | _, _ => 0#27

/-- Read `n` bytes at ascending addresses, each after its own check. -/
def State.readBytes (s : State) (k : AccessKind) : Nat → Addr → Access (List Byte)
  | 0, _ => .ok []
  | n + 1, a => (s.readByte k a).bind fun b => (s.readBytes k n (a + 1)).bind fun l => .ok (b :: l)

/-- Write bytes at ascending addresses, each after its own check. -/
def State.writeBytes (s : State) (a : Addr) : List Byte → Run
  | [] => .done s
  | b :: l => (s.writeByte a b).andThen fun t => t.writeBytes (a + 1) l

/-- `MemRead(addr, n)` (00_scope.md R12). -/
def State.readValue (s : State) (z : Size) (a : Addr) : Access Word :=
  (s.readBytes .read z.bytes a).bind fun l => .ok (z.join l)

/-- `MemWrite(addr, n, v)` (00_scope.md R12). -/
def State.writeValue (s : State) (z : Size) (a : Addr) (v : Word) : Run := s.writeBytes a (z.split v)

/-- Read `n` Tris at ascending addresses. -/
def State.readTris (s : State) : Nat → Addr → Access (List Word)
  | 0, _ => .ok []
  | n + 1, a => (s.readValue .tri a).bind fun v => (s.readTris n (a + 3)).bind fun l => .ok (v :: l)

/-- Write Tris at ascending addresses. -/
def State.writeTris (s : State) (a : Addr) : List Word → Run
  | [] => .done s
  | v :: l => (s.writeValue .tri a v).andThen fun t => t.writeTris (a + 3) l

/-! ## Taking an exception or interrupt (60_exceptions.md R506 to R512) -/

/-- The synchronous exceptions; the address and kind are the model's trace only (60_exceptions.md R508). -/
inductive Exc where
  | invalidInstruction
  | divideByZero
  | memoryException (k : AccessKind) (a : Addr)
deriving DecidableEq, Repr

/-- The interrupt number of an exception (60_exceptions.md R500). -/
def Exc.number (e : Exc) : IntNo :=
  match e with
  | .invalidInstruction => 4
  | .divideByZero => 5
  | .memoryException _ _ => 6

/-- The asynchronous interrupt numbers: 0 to 3, 7 and 8 (60_exceptions.md R500). -/
def asyncMask : IntMask := 0b110001111#9

/-- Is the number asynchronous? -/
def isAsync (n : IntNo) : Bool := asyncMask.getLsbD n.val

/-- The address of the handler Tri of an interrupt number: `VectorBase` + 3n (60_exceptions.md R505; log 18). -/
def State.vectorAddr (s : State) (n : IntNo) : Addr := s.settings.vectorBase + BitVec.ofNat 27 (3 * n.val)

/-- The size of an interrupt frame in bytes (49_system.md R404). -/
def frameSize : Addr := 0x63#27

/-- FLAGS in the handler, under `TrapEntryMask` (60_exceptions.md R510; log 23). -/
def State.entryFlags (s : State) : Word :=
  match s.settings.trapEntryMask with
  | .identity => s.flags
  | .function => Config.trapEntryMask s.flags

/-- `StackDirectionFlag` (10_state.md R40 (c); log 25). -/
def State.stackUp (s : State) : Bool := s.settings.stackDirectionFlag

/-- The 33 Tris of a frame: R0 to R31 of the state with the return address for the program counter, and FLAGS again
(60_exceptions.md R510). -/
def State.frameOf (s : State) (ret : Addr) : List Word :=
  (List.finRange 32).map (fun i => if i = s.pcReg then ret else s.x i) ++ [s.flags]

/-- The base of the frame that a trap entry writes: below ST, or at ST when frames grow upward. -/
def State.entryBase (s : State) : Addr := if s.stackUp then s.x s.stReg else s.x s.stReg - frameSize

/-- ST lowered before the frame is written, when frames grow downward. -/
def State.lowerST (s : State) : State := if s.stackUp then s else s.setX s.stReg (s.x s.stReg - frameSize)

/-- ST raised after the frame is written, when frames grow upward. -/
def State.raiseST (s : State) : State := if s.stackUp then s.setX s.stReg (s.x s.stReg + frameSize) else s

/-- The pending set when interrupt `n` is taken: a synchronous exception is never pending (60_exceptions.md R503). -/
def State.clearPending (s : State) (n : IntNo) : State :=
  if isAsync n then { s with pending := s.pending &&& ~~~(BitVec.twoPow 9 n.val) } else s

/-- The core is Faulted, every other piece of state as it was when the entry began (60_exceptions.md R512; log 19). -/
def State.becomeFaulted (s : State) : State := { s with runState := .faulted }

/-- The last part of a trap entry, after the frame is written. -/
def State.enterHandler (s : State) (n : IntNo) (handler : Addr) : State :=
  { ((s.raiseST.clearPending n).setFlags s.entryFlags).jump handler with runState := .running }

/-- Trap entry for number `n` with return address `ret` (60_exceptions.md R510). Any failure inside it makes the core
Faulted (R512). -/
def State.trapEntry (s : State) (n : IntNo) (ret : Addr) : State :=
  if s.enabled n then
    match s.readValue .tri (s.vectorAddr n) with
    | .ok handler =>
      if handler = 0#27 then s.becomeFaulted
      else
        match s.lowerST.writeTris s.entryBase (s.lowerST.frameOf ret) with
        | .done t => t.enterHandler n handler
        | _ => s.becomeFaulted
    | _ => s.becomeFaulted
  else s.becomeFaulted

/-- The return address of a synchronous exception in the instruction at pc; `len` is its length where it is known
(60_exceptions.md R511, `ExcReturnPC`; log 24). -/
def State.excReturn (s : State) (len : Option Nat) : Addr :=
  match s.settings.excReturnPC, len with
  | .faulting, _ => s.pc
  | .next, some l => s.pc + BitVec.ofNat 27 l
  | .next, none => Config.unknownLengthReturn s.draws

/-- The free values that `excReturn` draws. -/
def State.excDraws (s : State) (len : Option Nat) : Nat :=
  match s.settings.excReturnPC, len with
  | .next, none => 1
  | _, _ => 0

/-- The state after a synchronous exception is taken (60_exceptions.md R510, R511). -/
def State.takeException (s : State) (e : Exc) (len : Option Nat) : State :=
  (s.drew (s.excDraws len)).trapEntry e.number (s.excReturn len)

/-- `raise` (00_scope.md R13): the instruction ends, and the exception is taken. -/
def State.raise (s : State) (e : Exc) (len : Option Nat) : Host.Outcome State Fault Refusal :=
  .next (s.takeException e len)

/-- End an instruction of `len` bytes whose accesses answered `x`. -/
def Run.finish (x : Run) (len : Nat) (k : State → Host.Outcome State Fault Refusal) : Host.Outcome State Fault Refusal :=
  match x with
  | .done s => k s
  | .denied kind a s => s.raise (.memoryException kind a) (some len)
  | .stopped f => .fault f
  | .refused r => .refused r

/-- End an instruction of `len` bytes that reads in state `s`, its accesses having answered `x`. -/
def Access.finish {α : Type} (x : Access α) (s : State) (len : Nat) (k : α → Host.Outcome State Fault Refusal) :
    Host.Outcome State Fault Refusal :=
  match x with
  | .ok v => k v
  | .denied kind a => s.raise (.memoryException kind a) (some len)
  | .stopped f => .fault f
  | .refused r => .refused r

/-! ## Return from an interrupt (49_system.md R404) -/

/-- The base of the frame that IR reads. -/
def State.returnBase (s : State) : Addr := if s.stackUp then s.x s.stReg - frameSize else s.x s.stReg

/-- ST after IR: the restored value, raised by the frame size when frames grow downward. -/
def returnST (up : Bool) (restored : Word) : Word := if up then restored else restored + frameSize

/-- What a register holds after IR: its slot of the frame; for ST the slot moved back, for FLAGS the last Tri (it overrides the
slot, 90_conflicts.md C9). -/
def State.restored (s : State) (frame : List Word) (r : RegNo) : Word :=
  if r = s.stReg then returnST s.stackUp (frame.getD r.val 0#27)
  else if r = s.flagsReg then frame.getD 32 0#27
  else frame.getD r.val 0#27

/-- The state that the 33 Tris of a frame restore. -/
def State.restoreFrame (s : State) (frame : List Word) : State := { s with regs := Vector.ofFn (s.restored frame) }

/-- IR: all 99 bytes are read before any register is written (49_system.md R404). -/
def State.interruptReturn (s : State) : Host.Outcome State Fault Refusal :=
  (s.readTris 33 s.returnBase).finish s 2 fun frame => .next (s.restoreFrame frame)

end Sys2Proof.Machine
end

