-- ==== Sys2Proof/Machine/Operands.lean ====
section
/-! DEFINITION. Operand forms: immediates, shift counts, the arithmetic of two operands, and how a result is written back. -/

namespace Sys2Proof.Machine

/-- One answer of an instruction. -/
abbrev Out := Host.Outcome State Fault Refusal

/-! ## Immediates (30_encoding.md R119) -/

/-- An immediate zero-extended to the operand width. -/
def zext {m : Nat} (n : Nat) (imm : BitVec m) : BitVec n := imm.setWidth n

/-- An immediate sign-extended to the operand width. -/
def sext {m : Nat} (n : Nat) (imm : BitVec m) : BitVec n := imm.signExtend n

/-! ## Multiply, divide, modulus (41_multiply_divide_modulus.md R220) -/

/-- The low N bits of the product; the same for the signed and the unsigned reading. -/
def mulLow {n : Nat} (a b : BitVec n) : BitVec n := BitVec.ofNat n (a.toNat * b.toNat)

/-- The low N bits of the product of the two's complement values. -/
def mulSigned {n : Nat} (a b : BitVec n) : BitVec n := BitVec.ofInt n (a.toInt * b.toInt)

/-- The unsigned quotient. -/
def divUnsigned {n : Nat} (a b : BitVec n) : BitVec n := BitVec.ofNat n (a.toNat / b.toNat)

/-- The signed division that has no quotient of N bits: the most negative value by -1 (`DivOverflow`; log 28). -/
def divOverflows {n : Nat} (a b : BitVec n) : Bool := a == BitVec.intMin n && b == -1

/-- The signed quotient, rounded toward zero, `ov` where it does not fit. -/
def divSigned {n : Nat} (ov a b : BitVec n) : BitVec n :=
  if divOverflows a b then ov else BitVec.ofInt n (a.toInt.tdiv b.toInt)

/-- The unsigned remainder. -/
def modUnsigned {n : Nat} (a b : BitVec n) : BitVec n := BitVec.ofNat n (a.toNat % b.toNat)

/-- The signed remainder, zero or the sign of the dividend; `ov` where the quotient does not fit. -/
def modSigned {n : Nat} (ov a b : BitVec n) : BitVec n :=
  if divOverflows a b then ov else BitVec.ofInt n (a.toInt - a.toInt.tdiv b.toInt * b.toInt)

/-- `DivOverflow` of the machine. -/
def State.divOver (s : State) : DivOverflow := s.settings.divOverflow

/-! ## Logic (42_logic_negate.md R250) -/

/-- Logical not: 1 when the source is zero, else 0. -/
def logicalNot {n : Nat} (a : BitVec n) : BitVec n := if a = 0#n then 1#n else 0#n

/-! ## Shifts and rotates (43_shift_rotate.md R270, R271, `ShiftOver`; log 29) -/

/-- Shift left; N or more gives 0. -/
def shiftLeft {n : Nat} (a : BitVec n) (k : Nat) : BitVec n := if k < n then a <<< k else 0#n

/-- Logical shift right; N or more gives 0. -/
def shiftRight {n : Nat} (a : BitVec n) (k : Nat) : BitVec n := if k < n then a >>> k else 0#n

/-- Arithmetic shift right: `min k N` places, so N or more gives N copies of the sign bit. -/
def shiftArith {n : Nat} (a : BitVec n) (k : Nat) : BitVec n := a.sshiftRight (min k n)

/-- Rotate left by `k mod N`. -/
def rotLeft {n : Nat} (a : BitVec n) (k : Nat) : BitVec n := a <<< (k % n) ||| a >>> (n - k % n)

/-- Rotate right by `k mod N`. -/
def rotRight {n : Nat} (a : BitVec n) (k : Nat) : BitVec n := a >>> (k % n) ||| a <<< (n - k % n)

/-- A shift or rotate with every bit shifted out and the rotate amount modulo N. -/
def shiftMath (op : ShiftOp) {n : Nat} (a : BitVec n) (k : Nat) : BitVec n :=
  match op with
  | .shiftLeft => shiftLeft a k
  | .shiftRight => shiftRight a k
  | .shiftArith => shiftArith a k
  | .rotateLeft => rotLeft a k
  | .rotateRight => rotRight a k

/-- The counts that `ShiftOver` speaks of: a shift by N or more, a rotate by more than N. -/
def shiftIsOver (op : ShiftOp) (n k : Nat) : Bool :=
  match op with
  | .shiftLeft => decide (n ≤ k)
  | .shiftRight => decide (n ≤ k)
  | .shiftArith => decide (n ≤ k)
  | .rotateLeft => decide (n < k)
  | .rotateRight => decide (n < k)

/-- The result of a shift or rotate under `ShiftOver`. -/
def shiftBy (p : ShiftOver) (op : ShiftOp) {n : Nat} (a : BitVec n) (k : Nat) : BitVec n :=
  match p with
  | .mathematical => shiftMath op a k
  | .function => if shiftIsOver op n k then Config.shiftOver op n a k else shiftMath op a k

/-- The name of a shift or rotate for `FlagCO`. -/
def shiftFlagOp (op : ShiftOp) : FlagOp :=
  match op with
  | .shiftLeft => .shiftLeft
  | .shiftRight => .shiftRight
  | .shiftArith => .shiftArith
  | .rotateLeft => .rotateLeft
  | .rotateRight => .rotateRight

/-! ## Writing a result back (10_state.md R25, R30, R33, R42) -/

/-- End an instruction of `len` bytes: the result goes to rA, then the flags are updated, so that a result in FLAGS is
overridden by them (10_state.md R33; log 26). A write to the program counter is refused (R25 (d), (f)). `k` free values were
drawn. -/
def State.writeWord (s : State) (rA : RegNo) (len : Nat) (r : Word) (u : FlagUpdate) (k : Nat) : Out :=
  if rA = s.pcReg then .refused .writeToR31
  else .next ((((s.setX rA r).updateFlags u).drew k).advance len)

/-- The same for a pair; a pair that contains the program counter is refused (10_state.md R23, R25 (d)). All these instructions
have three bytes. -/
def State.writePair (s : State) (rA : RegNo) (r : Pair) (u : FlagUpdate) (k : Nat) : Out :=
  if rA = s.pcReg ∨ rA + 1 = s.pcReg then .refused .writeToR31
  else .next ((((s.setXX rA r).updateFlags u).drew k).advance 3)

/-- C and O of an operation with no formula for them, on the machine. -/
def State.coFlags (s : State) (op : FlagOp) {n : Nat} (a b r : BitVec n) : Bool × Bool :=
  coOf s.settings.flagCO op a b r s.draws

/-- The free values that `coFlags` draws, when UF is 1. -/
def State.coDrawsIf (s : State) (uf : Bool) : Nat := if uf then coDraws s.settings.flagCO else 0

/-- A 27-bit result of an operation on `a` and `b`, with Z and S from it and C and O by `FlagCO`, when UF is 1. -/
def State.resultWord (s : State) (op : FlagOp) (rA : RegNo) (uf : Bool) (a b r : Word) : Out :=
  s.writeWord rA 3 r (whenUF uf (resultFlags r (s.coFlags op a b r))) (s.coDrawsIf uf)

/-- The same for 54 bits. -/
def State.resultPair (s : State) (op : FlagOp) (rA : RegNo) (uf : Bool) (a b r : Pair) : Out :=
  s.writePair rA r (whenUF uf (resultFlags r (s.coFlags op a b r))) (s.coDrawsIf uf)

/-- A 27-bit shift or rotate of `a` by `k` (43_shift_rotate.md R271). -/
def State.shiftWord (s : State) (op : ShiftOp) (rA : RegNo) (uf : Bool) (a : Word) (k : Nat) : Out :=
  s.resultWord (shiftFlagOp op) rA uf a (BitVec.ofNat 27 k) (shiftBy s.settings.shiftOver op a k)

/-- A 54-bit shift or rotate. -/
def State.shiftPair (s : State) (op : ShiftOp) (rA : RegNo) (uf : Bool) (a : Pair) (k : Nat) : Out :=
  s.resultPair (shiftFlagOp op) rA uf a (BitVec.ofNat 54 k) (shiftBy s.settings.shiftOver op a k)

/-- A 27-bit sum (40_add_subtract.md R201). -/
def State.addWord (s : State) (rA : RegNo) (uf : Bool) (a b : Word) (c : Bool) : Out :=
  s.writeWord rA 3 (addResult a b c) (whenUF uf (addFlags a b c)) 0

/-- A 54-bit sum. -/
def State.addPair (s : State) (rA : RegNo) (uf : Bool) (a b : Pair) (c : Bool) : Out :=
  s.writePair rA (addResult a b c) (whenUF uf (addFlags a b c)) 0

/-- `SubOverflow` of the machine. -/
def State.subOverflow (s : State) : SubOverflow := s.settings.subOverflow

/-- A 27-bit difference (40_add_subtract.md R201). -/
def State.subWord (s : State) (rA : RegNo) (uf : Bool) (a b : Word) (c : Bool) : Out :=
  s.writeWord rA 3 (subResult a b c) (whenUF uf (subFlags s.subOverflow a b c)) 0

/-- A 54-bit difference. -/
def State.subPair (s : State) (rA : RegNo) (uf : Bool) (a b : Pair) (c : Bool) : Out :=
  s.writePair rA (subResult a b c) (whenUF uf (subFlags s.subOverflow a b c)) 0

/-- A 27-bit quotient or remainder `r` of `a` by `b`: a zero divisor raises DivideByZero before anything is written
(41_multiply_divide_modulus.md R221). -/
def State.divideWord (s : State) (op : FlagOp) (rA : RegNo) (uf : Bool) (a b r : Word) : Out :=
  if b = 0#27 then s.raise .divideByZero (some 3) else s.resultWord op rA uf a b r

/-- A 54-bit quotient or remainder. -/
def State.dividePair (s : State) (op : FlagOp) (rA : RegNo) (uf : Bool) (a b r : Pair) : Out :=
  if b = 0#54 then s.raise .divideByZero (some 3) else s.resultPair op rA uf a b r

/-- `NoUFFlagPolicy` of the machine. -/
def State.noUF (s : State) : NoUFFlagPolicy := s.settings.noUFFlagPolicy

/-- The free values of an instruction that lists flags and has no UF field. -/
def State.noUFDraws (s : State) : Nat :=
  match s.noUF with
  | .always => coDraws s.settings.flagCO
  | .never => 0
  | .draw => 1

/-- A 27-bit result of an instruction with no UF field; `u` is what `always` writes (10_state.md R31). -/
def State.noUFWord (s : State) (rA : RegNo) (r : Word) (u : FlagUpdate) : Out :=
  s.writeWord rA 3 r (noUFFlags s.noUF u s.draws) s.noUFDraws

/-- A 54-bit result of an instruction with no UF field. -/
def State.noUFPair (s : State) (rA : RegNo) (r : Pair) (u : FlagUpdate) : Out :=
  s.writePair rA r (noUFFlags s.noUF u s.draws) s.noUFDraws

/-- A move or extend with the operands `a` and `b` and the result `r` (44_move_extend_random.md R300). -/
def State.moveWord (s : State) (op : FlagOp) (rA : RegNo) (a b r : Word) : Out :=
  s.noUFWord rA r (resultFlags r (s.coFlags op a b r))

/-- The same for 54 bits. -/
def State.movePair (s : State) (op : FlagOp) (rA : RegNo) (a b r : Pair) : Out :=
  s.noUFPair rA r (resultFlags r (s.coFlags op a b r))

/-- A conversion of `a` to the floating-point value `r` (48_float.md R371 (d)). -/
def State.toFloatWord (s : State) (op : FlagOp) (rA : RegNo) (a r : Word) : Out :=
  s.noUFWord rA r (floatFlags r (s.coFlags op a 0#27 r))

/-- The same for 54 bits. -/
def State.toFloatPair (s : State) (op : FlagOp) (rA : RegNo) (a r : Pair) : Out :=
  s.noUFPair rA r (floatFlags r (s.coFlags op a 0#54 r))

/-- A floating-point result, 27 bits (48_float.md R371 (a)). -/
def State.floatWord (s : State) (op : FlagOp) (rA : RegNo) (uf : Bool) (a b r : Word) : Out :=
  s.writeWord rA 3 r (whenUF uf (floatFlags r (s.coFlags op a b r))) (s.coDrawsIf uf)

/-- A floating-point result, 54 bits. -/
def State.floatPair (s : State) (op : FlagOp) (rA : RegNo) (uf : Bool) (a b r : Pair) : Out :=
  s.writePair rA r (whenUF uf (floatFlags r (s.coFlags op a b r))) (s.coDrawsIf uf)

/-- A floating-point quotient or remainder `r` of `a` by `b`, 27 bits: DivideByZero when `FloatOps.fdivfault` says so
(48_float.md R370). -/
def State.floatDivideWord (s : State) (op : FlagOp) (rA : RegNo) (uf : Bool) (a b r : Word) : Out :=
  if Config.fdivfault 27 a b then s.raise .divideByZero (some 3) else s.floatWord op rA uf a b r

/-- A floating-point quotient or remainder, 54 bits. -/
def State.floatDividePair (s : State) (op : FlagOp) (rA : RegNo) (uf : Bool) (a b r : Pair) : Out :=
  if Config.fdivfault 54 a b then s.raise .divideByZero (some 3) else s.floatPair op rA uf a b r

/-- RND and RNDM: a drawn result, and its flags when UF is 1 (44_move_extend_random.md R308, R309). -/
def State.randomFlags (s : State) (uf : Bool) {n : Nat} (r : BitVec n) : FlagUpdate :=
  whenUF uf (resultFlags r (s.coFlags .random 0#n 0#n r))

/-- End a compare of `len` bytes: only FLAGS and the program counter change (45_compare.md R320). -/
def State.compareTo (s : State) (len : Nat) (u : FlagUpdate) : Out := .next ((s.updateFlags u).advance len)

/-! ## Targets (46_branch_call.md R340) -/

/-- Write the return address, `len` bytes on, to RA and continue at a target: the target is computed from the state in which
RA is already written (CR with rA = RA reads the new RA, 46_branch_call.md R336). -/
def State.link (s : State) (len : Nat) : State := s.setX s.raReg (s.pc + BitVec.ofNat 27 len)

/-- A conditional branch or call of `len` bytes: `taken` where the condition holds, else the next instruction; an invalid
Condition value raises InvalidInstruction (46_branch_call.md R330). -/
def State.branchIf (s : State) (cond : Fin 16) (len : Nat) (taken : State) : Out :=
  match s.condRow cond with
  | none => s.raise .invalidInstruction (some len)
  | some t => .next (if s.passes t then taken else s.advance len)

/-! ## Loads and stores (47_load_store.md R350) -/

/-- The bytes that a load or store moves: (count + 1) elements. -/
def moveBytes (z : Size) (count : Fin 32) : Word := BitVec.ofNat 27 ((count.val + 1) * z.bytes)

/-- `Temp`: the base, lowered first in mode 2. -/
def State.moveBase (s : State) (z : Size) (rB : RegNo) (count : Fin 32) (mode : Fin 4) : Word :=
  if mode = 2 then s.x rB - moveBytes z count else s.x rB

/-- `MemLocation`: the address of the first byte moved. -/
def State.moveLoc (s : State) (z : Size) (rB : RegNo) (count : Fin 32) (mode : Fin 4) (offset : BitVec 27) : Addr :=
  s.moveBase z rB count mode + offset

/-- The loop of a load: `n` registers from `r` on, from ascending addresses. The program counter discards its value. -/
def State.loadLoop (z : Size) : Nat → RegNo → Addr → State → Run
  | 0, _, _, s => .done s
  | n + 1, r, a, s =>
    match s.readValue z a with
    | .ok v => State.loadLoop z n (r + 1) (a + BitVec.ofNat 27 z.bytes) (s.setX r v)
    | .denied k b => .denied k b s
    | .stopped f => .stopped f
    | .refused e => .refused e

/-- The loop of a store: `n` registers from `r` on, to ascending addresses. -/
def State.storeLoop (z : Size) : Nat → RegNo → Addr → State → Run
  | 0, _, _, s => .done s
  | n + 1, r, a, s =>
    (s.writeValue z a (s.x r)).andThen fun t => State.storeLoop z n (r + 1) (a + BitVec.ofNat 27 z.bytes) t

/-- rB after the loop: raised by the bytes moved in mode 1, from the value it then holds; the lowered base in mode 2. -/
def State.adjustBase (s : State) (z : Size) (rB : RegNo) (count : Fin 32) (mode : Fin 4) (temp : Word) : State :=
  if mode = 1 then s.setX rB (s.x rB + moveBytes z count) else if mode = 2 then s.setX rB temp else s

/-- A load (47_load_store.md R350). Mode 3 raises InvalidInstruction. -/
def State.load (s : State) (z : Size) (rA rB : RegNo) (count : Fin 32) (mode : Fin 4) (offset : BitVec 27) : Out :=
  if mode = 3 then s.raise .invalidInstruction (some 6)
  else
    (State.loadLoop z (count.val + 1) rA (s.moveLoc z rB count mode offset) s).finish 6 fun t =>
      .next ((t.adjustBase z rB count mode (s.moveBase z rB count mode)).advance 6)

/-- A store (47_load_store.md R350). Mode 3 raises InvalidInstruction; an update of the program counter is refused after the loop
(10_state.md R25 (e); log 27). -/
def State.store (s : State) (z : Size) (rA rB : RegNo) (count : Fin 32) (mode : Fin 4) (offset : BitVec 27) : Out :=
  if mode = 3 then s.raise .invalidInstruction (some 6)
  else
    (State.storeLoop z (count.val + 1) rA (s.moveLoc z rB count mode offset) s).finish 6 fun t =>
      if rB = s.pcReg ∧ mode ≠ 0 then .refused .writeToR31
      else .next ((t.adjustBase z rB count mode (s.moveBase z rB count mode)).advance 6)

/-- The loop of DMT: `n` bytes from `src` to `dst`, one at a time, ascending (47_load_store.md R357). -/
def State.copyLoop : Nat → Addr → Addr → State → Run
  | 0, _, _, s => .done s
  | n + 1, dst, src, s =>
    match s.readByte .read src with
    | .ok b => (s.writeByte dst b).andThen fun t => State.copyLoop n (dst + 1) (src + 1) t
    | .denied k a => .denied k a s
    | .stopped f => .stopped f
    | .refused e => .refused e

/-! ## Page protection requests (49_system.md R407, R408) -/

/-- The clean domain: a page-aligned start, at least one page, inside the address space. -/
def pagesValid (a n : Word) : Bool :=
  decide (a.toNat % 1024 = 0 ∧ 1 ≤ n.toNat ∧ pageOf a + n.toNat ≤ pageCount)

/-- The most pages that RMP can read at once (49_system.md R408). -/
def maxReadPages : Nat := 13

/-- A protection value with its high and its low bit at these bits of a word. -/
def placeProt (places : Fin 27 × Fin 27) (v : Prot) : Word :=
  (if v.getLsbD 1 then BitVec.twoPow 27 places.1.val else 0#27) |||
    (if v.getLsbD 0 then BitVec.twoPow 27 places.2.val else 0#27)

/-- Where `RMPPack` puts page i of n. -/
def packPlaces (p : RMPPack) (n i : Nat) : Fin 27 × Fin 27 := p[(Fin.ofNat 13 (n - 1)).val][(Fin.ofNat 13 i).val]

/-- The first `k` of the `n` pages from `page`, packed (49_system.md R408; log 30). -/
def packPages (p : RMPPack) (t : ProtTable) (page n : Nat) : Nat → Word
  | 0 => 0#27
  | k + 1 => packPages p t page n k ||| placeProt (packPlaces p n k) (t.ofPage (page + k))

/-- The request of RMP or SMP fails, for a reason that `MPError` gives (log 20). -/
def State.mpReason (s : State) (q : ProtRequest) (rA rB : RegNo) : Option Word := Config.mpError s.draws q (s.x rA) (s.x rB)

/-- An SMP outside the clean domain: it fails with Z cleared and a reason in rA, or sets the pages that `MPError` says and
Z. -/
def State.setOutside (s : State) (rA rB : RegNo) (v : Prot) : State :=
  match s.mpReason .set rA rB with
  | some reason => (s.setX rA reason).updateFlags (.zero false)
  | none =>
    ({ s with prot := (Config.mpPages s.draws (s.x rA) (s.x rB)).foldl (fun t p => t.withRange (p % pageCount) 1 v) s.prot
        } : State).updateFlags (.zero true)

/-- An RMP outside the clean domain: what it puts in rA, and Z. -/
def State.readOutside (s : State) (rA rB : RegNo) : Word × Bool :=
  match s.mpReason .read rA rB with
  | some reason => (reason, false)
  | none => (Config.mpRead s.draws (s.x rA) (s.x rB), true)

/-- SMP (49_system.md R407). A failure that would write its reason to the program counter is refused (10_state.md R25 (d)). -/
def State.setProtection (s : State) (rA rB : RegNo) (v : Prot) : Out :=
  if pagesValid (s.x rA) (s.x rB) then
    .next (({ s with prot := s.prot.withRange (pageOf (s.x rA)) (s.x rB).toNat v }.updateFlags (.zero true)).advance 3)
  else if rA = s.pcReg ∧ (s.mpReason .set rA rB).isSome then .refused .writeToR31
  else .next (((s.setOutside rA rB v).drew 1).advance 3)

/-- RMP (49_system.md R408). -/
def State.readProtection (s : State) (rA rB : RegNo) : Out :=
  let n := (s.x rB).toNat
  if pagesValid (s.x rA) (s.x rB) && decide (n ≤ maxReadPages) then
    s.writeWord rA 3 (packPages s.settings.rmpPack s.prot (pageOf (s.x rA)) n n) (.zero true) 0
  else s.writeWord rA 3 (s.readOutside rA rB).1 (.zero (s.readOutside rA rB).2) 1

end Sys2Proof.Machine
end

