-- ==== Sys2Proof/Machine/AddSub.lean ====
section
/-! DEFINITION. The meanings of the add and subtract instructions (40_add_subtract.md). -/

namespace Sys2Proof.Machine

/-- AD, "Add": 40_add_subtract.md R202. -/
def execAd (rA : RegNo) (rB : RegNo) (rC : RegNo) (uf : Bool) (s : State) : Out :=
  s.addWord rA uf (s.x rB) (s.x rC) false

/-- ADI, "Add Immediate": 40_add_subtract.md R203. -/
def execAdi (rA : RegNo) (rB : RegNo) (imm : BitVec 7) (uf : Bool) (s : State) : Out :=
  s.addWord rA uf (s.x rB) (zext 27 imm) false

/-- ADM, "Add Multi Reg": 40_add_subtract.md R204. -/
def execAdm (rA : RegNo) (rB : RegNo) (rC : RegNo) (uf : Bool) (s : State) : Out :=
  s.addPair rA uf (s.xx rB) (s.xx rC) false

/-- ADIM, "Add Immediate Multi Reg": 40_add_subtract.md R205. -/
def execAdim (rA : RegNo) (rB : RegNo) (imm : BitVec 7) (uf : Bool) (s : State) : Out :=
  s.addPair rA uf (s.xx rB) (zext 54 imm) false

/-- ADC, "Add With Carry": 40_add_subtract.md R206. -/
def execAdc (rA : RegNo) (rB : RegNo) (rC : RegNo) (uf : Bool) (s : State) : Out :=
  s.addWord rA uf (s.x rB) (s.x rC) s.c

/-- ADCI, "Add Immediate With Carry": 40_add_subtract.md R207. -/
def execAdci (rA : RegNo) (rB : RegNo) (imm : BitVec 7) (uf : Bool) (s : State) : Out :=
  s.addWord rA uf (s.x rB) (zext 27 imm) s.c

/-- ADCM, "Add Multi Reg With Carry": 40_add_subtract.md R208. -/
def execAdcm (rA : RegNo) (rB : RegNo) (rC : RegNo) (uf : Bool) (s : State) : Out :=
  s.addPair rA uf (s.xx rB) (s.xx rC) s.c

/-- ADCIM, "Add Immediate Multi Reg With Carry": 40_add_subtract.md R209. -/
def execAdcim (rA : RegNo) (rB : RegNo) (imm : BitVec 7) (uf : Bool) (s : State) : Out :=
  s.addPair rA uf (s.xx rB) (zext 54 imm) s.c

/-- SB, "Subtract": 40_add_subtract.md R210. -/
def execSb (rA : RegNo) (rB : RegNo) (rC : RegNo) (uf : Bool) (s : State) : Out :=
  s.subWord rA uf (s.x rB) (s.x rC) false

/-- SBI, "Subtract Immediate": 40_add_subtract.md R211. -/
def execSbi (rA : RegNo) (rB : RegNo) (imm : BitVec 7) (uf : Bool) (s : State) : Out :=
  s.subWord rA uf (s.x rB) (zext 27 imm) false

/-- SBM, "Subtract Multi Reg": 40_add_subtract.md R212. -/
def execSbm (rA : RegNo) (rB : RegNo) (rC : RegNo) (uf : Bool) (s : State) : Out :=
  s.subPair rA uf (s.xx rB) (s.xx rC) false

/-- SBIM, "Subtract Immediate Multi Reg": 40_add_subtract.md R213. -/
def execSbim (rA : RegNo) (rB : RegNo) (imm : BitVec 7) (uf : Bool) (s : State) : Out :=
  s.subPair rA uf (s.xx rB) (zext 54 imm) false

/-- SBC, "Subtract With Carry": 40_add_subtract.md R214. -/
def execSbc (rA : RegNo) (rB : RegNo) (rC : RegNo) (uf : Bool) (s : State) : Out :=
  s.subWord rA uf (s.x rB) (s.x rC) s.c

/-- SBCI, "Subtract Immediate With Carry": 40_add_subtract.md R215. -/
def execSbci (rA : RegNo) (rB : RegNo) (imm : BitVec 7) (uf : Bool) (s : State) : Out :=
  s.subWord rA uf (s.x rB) (zext 27 imm) s.c

/-- SBCM, "Subtract Multi Reg With Carry": 40_add_subtract.md R216. -/
def execSbcm (rA : RegNo) (rB : RegNo) (rC : RegNo) (uf : Bool) (s : State) : Out :=
  s.subPair rA uf (s.xx rB) (s.xx rC) s.c

/-- SBCIM, "Subtract Immediate Multi Reg With Carry": 40_add_subtract.md R217. -/
def execSbcim (rA : RegNo) (rB : RegNo) (imm : BitVec 7) (uf : Bool) (s : State) : Out :=
  s.subPair rA uf (s.xx rB) (zext 54 imm) s.c

end Sys2Proof.Machine
end

