-- ==== Sys2Proof/Machine/Branch.lean ====
section
/-! DEFINITION. The meanings of the branch, call and return instructions (46_branch_call.md). -/

namespace Sys2Proof.Machine

/-- B, "Branch Conditional": 46_branch_call.md R331. -/
def execB (cond : Fin 16) (offset : BitVec 17) (s : State) : Out := s.branchIf cond 3 (s.jump (s.pc + sext 27 offset))

/-- BR, "Branch Register Conditional": 46_branch_call.md R332. -/
def execBr (cond : Fin 16) (rA : RegNo) (s : State) : Out := s.branchIf cond 2 (s.jump (s.x rA))

/-- BRA, "Branch Absolute": 46_branch_call.md R333. -/
def execBra (location : BitVec 27) (s : State) : Out := .next (s.jump location)

/-- BRR, "Branch Relative": 46_branch_call.md R334. -/
def execBrr (offset : BitVec 27) (s : State) : Out := .next (s.jump (s.pc + offset))

/-- C, "Call Conditional": 46_branch_call.md R335. -/
def execC (cond : Fin 16) (offset : BitVec 17) (s : State) : Out :=
  s.branchIf cond 3 ((s.link 3).jump (s.pc + sext 27 offset))

/-- CR, "Call Register Conditional": 46_branch_call.md R336. RA is written before rA is read. -/
def execCr (cond : Fin 16) (rA : RegNo) (s : State) : Out := s.branchIf cond 2 ((s.link 2).jump ((s.link 2).x rA))

/-- CAA, "Call Absolute": 46_branch_call.md R337. -/
def execCaa (location : BitVec 27) (s : State) : Out := .next ((s.link 4).jump location)

/-- CAR, "Call Relative": 46_branch_call.md R338. -/
def execCar (offset : BitVec 27) (s : State) : Out := .next ((s.link 4).jump (s.pc + offset))

/-- RE, "Return": 46_branch_call.md R339. -/
def execRe (s : State) : Out := .next (s.jump (s.x s.raReg))

end Sys2Proof.Machine
end

