-- ==== Sys2Proof/Machine/Compare.lean ====
section
/-! DEFINITION. The meanings of the compare instructions (45_compare.md). -/

namespace Sys2Proof.Machine

/-- CM, "Compare": 45_compare.md R321. -/
def execCm (rA : RegNo) (rB : RegNo) (s : State) : Out := s.compareTo 2 (compareFlags s.subOverflow (s.x rA) (s.x rB))

/-- CMI, "Compare Immediate": 45_compare.md R322. -/
def execCmi (rA : RegNo) (imm : BitVec 14) (s : State) : Out :=
  s.compareTo 3 (compareFlags s.subOverflow (s.x rA) (sext 27 imm))

/-- CMM, "Compare Multi Reg": 45_compare.md R323. -/
def execCmm (rA : RegNo) (rB : RegNo) (s : State) : Out :=
  s.compareTo 2 (compareFlags s.subOverflow (s.xx rA) (s.xx rB))

/-- CMIM, "Compare Immediate Multi Reg": 45_compare.md R324. -/
def execCmim (rA : RegNo) (imm : BitVec 14) (s : State) : Out :=
  s.compareTo 3 (compareFlags s.subOverflow (s.xx rA) (sext 54 imm))

end Sys2Proof.Machine
end

