-- ==== Sys2Proof/Machine/Float.lean ====
section
/-! DEFINITION. The meanings of the floating-point instructions (48_float.md). -/

namespace Sys2Proof.Machine

/-- ADF, "Add Floating Point": 48_float.md R372. -/
def execAdf (rA : RegNo) (rB : RegNo) (rC : RegNo) (uf : Bool) (s : State) : Out :=
  s.floatWord .floatAdd rA uf (s.x rB) (s.x rC) (Config.fadd 27 (s.x rB) (s.x rC))

/-- ADFM, "Add Floating Point Multi Reg": 48_float.md R373. -/
def execAdfm (rA : RegNo) (rB : RegNo) (rC : RegNo) (uf : Bool) (s : State) : Out :=
  s.floatPair .floatAdd rA uf (s.xx rB) (s.xx rC) (Config.fadd 54 (s.xx rB) (s.xx rC))

/-- SBF, "Subtract Floating Point": 48_float.md R374. -/
def execSbf (rA : RegNo) (rB : RegNo) (rC : RegNo) (uf : Bool) (s : State) : Out :=
  s.floatWord .floatSub rA uf (s.x rB) (s.x rC) (Config.fsub 27 (s.x rB) (s.x rC))

/-- SBFM, "Subtract Floating Point Multi Reg": 48_float.md R375. -/
def execSbfm (rA : RegNo) (rB : RegNo) (rC : RegNo) (uf : Bool) (s : State) : Out :=
  s.floatPair .floatSub rA uf (s.xx rB) (s.xx rC) (Config.fsub 54 (s.xx rB) (s.xx rC))

/-- MUF, "Multiply Floating Point": 48_float.md R376. -/
def execMuf (rA : RegNo) (rB : RegNo) (rC : RegNo) (uf : Bool) (s : State) : Out :=
  s.floatWord .floatMul rA uf (s.x rB) (s.x rC) (Config.fmul 27 (s.x rB) (s.x rC))

/-- MUFM, "Multiply Floating Point Multi Reg": 48_float.md R377. -/
def execMufm (rA : RegNo) (rB : RegNo) (rC : RegNo) (uf : Bool) (s : State) : Out :=
  s.floatPair .floatMul rA uf (s.xx rB) (s.xx rC) (Config.fmul 54 (s.xx rB) (s.xx rC))

/-- DVF, "Divide Floating Point": 48_float.md R378. -/
def execDvf (rA : RegNo) (rB : RegNo) (rC : RegNo) (uf : Bool) (s : State) : Out :=
  s.floatDivideWord .floatDiv rA uf (s.x rB) (s.x rC) (Config.fdiv 27 (s.x rB) (s.x rC))

/-- DVFM, "Divide Floating Point Multi Reg": 48_float.md R379. -/
def execDvfm (rA : RegNo) (rB : RegNo) (rC : RegNo) (uf : Bool) (s : State) : Out :=
  s.floatDividePair .floatDiv rA uf (s.xx rB) (s.xx rC) (Config.fdiv 54 (s.xx rB) (s.xx rC))

/-- MDF, "Modulus Floating Point": 48_float.md R380. -/
def execMdf (rA : RegNo) (rB : RegNo) (rC : RegNo) (uf : Bool) (s : State) : Out :=
  s.floatDivideWord .floatMod rA uf (s.x rB) (s.x rC) (Config.fmod 27 (s.x rB) (s.x rC))

/-- MDFM, "Modulus Floating Point Multi Reg": 48_float.md R381. -/
def execMdfm (rA : RegNo) (rB : RegNo) (rC : RegNo) (uf : Bool) (s : State) : Out :=
  s.floatDividePair .floatMod rA uf (s.xx rB) (s.xx rC) (Config.fmod 54 (s.xx rB) (s.xx rC))

/-- CMF, "Compare Floating Point": 48_float.md R382. -/
def execCmf (rA : RegNo) (rB : RegNo) (s : State) : Out := s.compareTo 2 (floatCompareFlags (s.x rA) (s.x rB))

/-- CMFM, "Compare Floating Point Multi Reg": 48_float.md R383. -/
def execCmfm (rA : RegNo) (rB : RegNo) (s : State) : Out := s.compareTo 2 (floatCompareFlags (s.xx rA) (s.xx rB))

/-- NGF, "Negate Floating Point": 48_float.md R384. -/
def execNgf (rA : RegNo) (rB : RegNo) (uf : Bool) (s : State) : Out :=
  s.writeWord rA 3 (Config.fneg 27 (s.x rB)) (whenUF uf (floatNegateFlags (Config.fneg 27 (s.x rB)))) 0

/-- NGFM, "Negate Floating Point Multi Reg": 48_float.md R385. -/
def execNgfm (rA : RegNo) (rB : RegNo) (uf : Bool) (s : State) : Out :=
  s.writePair rA (Config.fneg 54 (s.xx rB)) (whenUF uf (floatNegateFlags (Config.fneg 54 (s.xx rB)))) 0

/-- ITF, "Integer to Float": 48_float.md R386. -/
def execItf (rA : RegNo) (rB : RegNo) (s : State) : Out :=
  s.toFloatWord .intToFloat rA (s.x rB) (Config.itf 27 (s.x rB))

/-- ITFM, "Integer to Float Multi Reg": 48_float.md R387. -/
def execItfm (rA : RegNo) (rB : RegNo) (s : State) : Out :=
  s.toFloatPair .intToFloat rA (s.xx rB) (Config.itf 54 (s.xx rB))

/-- FTI, "Float to Integer": 48_float.md R388. -/
def execFti (rA : RegNo) (rB : RegNo) (s : State) : Out :=
  s.moveWord .floatToInt rA (s.x rB) 0#27 (Config.fti 27 (s.x rB))

/-- FTIM, "Float to Integer Multi Reg": 48_float.md R389. -/
def execFtim (rA : RegNo) (rB : RegNo) (s : State) : Out :=
  s.movePair .floatToInt rA (s.xx rB) 0#54 (Config.fti 54 (s.xx rB))

end Sys2Proof.Machine
end

