-- ==== Sys2Proof/Machine/LoadStore.lean ====
section
/-! DEFINITION. The meanings of the load, store and memory transfer instructions (47_load_store.md). -/

namespace Sys2Proof.Machine

/-- LDS, "Load Single": 47_load_store.md R351. -/
def execLds (rA : RegNo) (rB : RegNo) (count : Fin 32) (mode : Fin 4) (offset : BitVec 27) (s : State) : Out :=
  s.load .single rA rB count mode offset

/-- LDW, "Load Word": 47_load_store.md R352. -/
def execLdw (rA : RegNo) (rB : RegNo) (count : Fin 32) (mode : Fin 4) (offset : BitVec 27) (s : State) : Out :=
  s.load .word rA rB count mode offset

/-- LDT, "Load Tri": 47_load_store.md R353. -/
def execLdt (rA : RegNo) (rB : RegNo) (count : Fin 32) (mode : Fin 4) (offset : BitVec 27) (s : State) : Out :=
  s.load .tri rA rB count mode offset

/-- STS, "Store Single": 47_load_store.md R354. -/
def execSts (rA : RegNo) (rB : RegNo) (count : Fin 32) (mode : Fin 4) (offset : BitVec 27) (s : State) : Out :=
  s.store .single rA rB count mode offset

/-- STW, "Store Word": 47_load_store.md R355. -/
def execStw (rA : RegNo) (rB : RegNo) (count : Fin 32) (mode : Fin 4) (offset : BitVec 27) (s : State) : Out :=
  s.store .word rA rB count mode offset

/-- STT, "Store Tri": 47_load_store.md R356. -/
def execStt (rA : RegNo) (rB : RegNo) (count : Fin 32) (mode : Fin 4) (offset : BitVec 27) (s : State) : Out :=
  s.store .tri rA rB count mode offset

/-- DMT, "Direct Memory Transfer": 47_load_store.md R357. All three registers are read before the copy and none is written. -/
def execDmt (rA : RegNo) (rB : RegNo) (rC : RegNo) (s : State) : Out :=
  (State.copyLoop (s.x rC).toNat (s.x rA) (s.x rB) s).finish 3 fun t => .next (t.advance 3)

end Sys2Proof.Machine
end

