-- ==== Sys2Proof/Machine/Logic.lean ====
section
/-! DEFINITION. The meanings of the logic, bit flip, negate and bit test instructions (42_logic_negate.md). -/

namespace Sys2Proof.Machine

/-- AN, "And": 42_logic_negate.md R251. -/
def execAn (rA : RegNo) (rB : RegNo) (rC : RegNo) (uf : Bool) (s : State) : Out :=
  s.resultWord .and rA uf (s.x rB) (s.x rC) (s.x rB &&& s.x rC)

/-- ANI, "And Immediate": 42_logic_negate.md R252. -/
def execAni (rA : RegNo) (rB : RegNo) (imm : BitVec 7) (uf : Bool) (s : State) : Out :=
  s.resultWord .and rA uf (s.x rB) (zext 27 imm) (s.x rB &&& zext 27 imm)

/-- ANM, "And Multi Reg": 42_logic_negate.md R253. -/
def execAnm (rA : RegNo) (rB : RegNo) (rC : RegNo) (uf : Bool) (s : State) : Out :=
  s.resultPair .and rA uf (s.xx rB) (s.xx rC) (s.xx rB &&& s.xx rC)

/-- OR, "Or": 42_logic_negate.md R254. -/
def execOr (rA : RegNo) (rB : RegNo) (rC : RegNo) (uf : Bool) (s : State) : Out :=
  s.resultWord .or rA uf (s.x rB) (s.x rC) (s.x rB ||| s.x rC)

/-- ORI, "Or Immediate": 42_logic_negate.md R255. -/
def execOri (rA : RegNo) (rB : RegNo) (imm : BitVec 7) (uf : Bool) (s : State) : Out :=
  s.resultWord .or rA uf (s.x rB) (zext 27 imm) (s.x rB ||| zext 27 imm)

/-- ORM, "Or Multi Reg": 42_logic_negate.md R256. -/
def execOrm (rA : RegNo) (rB : RegNo) (rC : RegNo) (uf : Bool) (s : State) : Out :=
  s.resultPair .or rA uf (s.xx rB) (s.xx rC) (s.xx rB ||| s.xx rC)

/-- XR, "Xor": 42_logic_negate.md R257. -/
def execXr (rA : RegNo) (rB : RegNo) (rC : RegNo) (uf : Bool) (s : State) : Out :=
  s.resultWord .xor rA uf (s.x rB) (s.x rC) (s.x rB ^^^ s.x rC)

/-- XRI, "Xor Immediate": 42_logic_negate.md R258. -/
def execXri (rA : RegNo) (rB : RegNo) (imm : BitVec 7) (uf : Bool) (s : State) : Out :=
  s.resultWord .xor rA uf (s.x rB) (zext 27 imm) (s.x rB ^^^ zext 27 imm)

/-- XRM, "Xor Multi Reg": 42_logic_negate.md R259. -/
def execXrm (rA : RegNo) (rB : RegNo) (rC : RegNo) (uf : Bool) (s : State) : Out :=
  s.resultPair .xor rA uf (s.xx rB) (s.xx rC) (s.xx rB ^^^ s.xx rC)

/-- BF, "Bit Flip": 42_logic_negate.md R260. -/
def execBf (rA : RegNo) (rB : RegNo) (uf : Bool) (s : State) : Out :=
  s.resultWord .bitFlip rA uf (s.x rB) 0#27 (~~~(s.x rB))

/-- BFM, "Bit Flip Multi Reg": 42_logic_negate.md R261. -/
def execBfm (rA : RegNo) (rB : RegNo) (uf : Bool) (s : State) : Out :=
  s.resultPair .bitFlip rA uf (s.xx rB) 0#54 (~~~(s.xx rB))

/-- NG, "Negate": 42_logic_negate.md R262. -/
def execNg (rA : RegNo) (rB : RegNo) (uf : Bool) (s : State) : Out :=
  s.resultWord .negate rA uf (s.x rB) 0#27 (-(s.x rB))

/-- NGM, "Negate Multi Reg": 42_logic_negate.md R263. -/
def execNgm (rA : RegNo) (rB : RegNo) (uf : Bool) (s : State) : Out :=
  s.resultPair .negate rA uf (s.xx rB) 0#54 (-(s.xx rB))

/-- NT, "Not": 42_logic_negate.md R264. -/
def execNt (rA : RegNo) (rB : RegNo) (uf : Bool) (s : State) : Out :=
  s.resultWord .not rA uf (s.x rB) 0#27 (logicalNot (s.x rB))

/-- NTM, "Not Multi Reg": 42_logic_negate.md R265. -/
def execNtm (rA : RegNo) (rB : RegNo) (uf : Bool) (s : State) : Out :=
  s.resultPair .not rA uf (s.xx rB) 0#54 (logicalNot (s.xx rB))

end Sys2Proof.Machine
end

