-- ==== Sys2Proof/Machine/Move.lean ====
section
/-! DEFINITION. The meanings of the move immediate, extend and random instructions (44_move_extend_random.md). -/

namespace Sys2Proof.Machine

/-- MH, "Move High": 44_move_extend_random.md R301. The low 10 bits of rA are kept. -/
def execMh (rA : RegNo) (imm : BitVec 17) (s : State) : Out :=
  s.moveWord .moveHigh rA (s.x rA) (zext 27 imm) (imm ++ (s.x rA).extractLsb' 0 10)

/-- ML, "Move Low": 44_move_extend_random.md R302. The immediate is zero-extended. -/
def execMl (rA : RegNo) (imm : BitVec 17) (s : State) : Out := s.moveWord .moveLow rA (zext 27 imm) 0#27 (zext 27 imm)

/-- MS, "Move Low Signed": 44_move_extend_random.md R303. The immediate is sign-extended. -/
def execMs (rA : RegNo) (imm : BitVec 17) (s : State) : Out :=
  s.moveWord .moveLowSigned rA (sext 27 imm) 0#27 (sext 27 imm)

/-- SES, "Sign Extend Single": 44_move_extend_random.md R304. -/
def execSes (rA : RegNo) (rB : RegNo) (s : State) : Out :=
  s.moveWord .signExtendSingle rA (s.x rB) 0#27 (sext 27 ((s.x rB).extractLsb' 0 9))

/-- SEW, "Sign Extend Word": 44_move_extend_random.md R305. -/
def execSew (rA : RegNo) (rB : RegNo) (s : State) : Out :=
  s.moveWord .signExtendWord rA (s.x rB) 0#27 (sext 27 ((s.x rB).extractLsb' 0 18))

/-- ZES, "Zero Extend Single": 44_move_extend_random.md R306. -/
def execZes (rA : RegNo) (rB : RegNo) (s : State) : Out :=
  s.moveWord .zeroExtendSingle rA (s.x rB) 0#27 (zext 27 ((s.x rB).extractLsb' 0 9))

/-- ZEW, "Zero Extend Word": 44_move_extend_random.md R307. -/
def execZew (rA : RegNo) (rB : RegNo) (s : State) : Out :=
  s.moveWord .zeroExtendWord rA (s.x rB) 0#27 (zext 27 ((s.x rB).extractLsb' 0 18))

/-- RND, "Random": 44_move_extend_random.md R308. The value is drawn; UF draws C and O with it. -/
def execRnd (rA : RegNo) (uf : Bool) (s : State) : Out :=
  s.writeWord rA 3 (Config.draw27 s.draws) (s.randomFlags uf (Config.draw27 s.draws)) 1

/-- RNDM, "Random Multi Reg": 44_move_extend_random.md R309. The value is drawn; UF draws C and O with it. -/
def execRndm (rA : RegNo) (uf : Bool) (s : State) : Out :=
  s.writePair rA (Config.draw54 s.draws) (s.randomFlags uf (Config.draw54 s.draws)) 1

end Sys2Proof.Machine
end

