-- ==== Sys2Proof/Machine/MulDiv.lean ====
section
/-! DEFINITION. The meanings of the multiply, divide and modulus instructions (41_multiply_divide_modulus.md). -/

namespace Sys2Proof.Machine

/-- MU, "Multiply": 41_multiply_divide_modulus.md R222. -/
def execMu (rA : RegNo) (rB : RegNo) (rC : RegNo) (uf : Bool) (s : State) : Out :=
  s.resultWord .mul rA uf (s.x rB) (s.x rC) (mulLow (s.x rB) (s.x rC))

/-- MUI, "Multiply Immediate": 41_multiply_divide_modulus.md R223. -/
def execMui (rA : RegNo) (rB : RegNo) (imm : BitVec 7) (uf : Bool) (s : State) : Out :=
  s.resultWord .mul rA uf (s.x rB) (zext 27 imm) (mulLow (s.x rB) (zext 27 imm))

/-- MUM, "Multiply Multi Reg": 41_multiply_divide_modulus.md R224. -/
def execMum (rA : RegNo) (rB : RegNo) (rC : RegNo) (uf : Bool) (s : State) : Out :=
  s.resultPair .mul rA uf (s.xx rB) (s.xx rC) (mulLow (s.xx rB) (s.xx rC))

/-- MUIM, "Multiply Immediate Multi Reg": 41_multiply_divide_modulus.md R225. -/
def execMuim (rA : RegNo) (rB : RegNo) (imm : BitVec 7) (uf : Bool) (s : State) : Out :=
  s.resultPair .mul rA uf (s.xx rB) (zext 54 imm) (mulLow (s.xx rB) (zext 54 imm))

/-- MUS, "Multiply Signed": 41_multiply_divide_modulus.md R226. -/
def execMus (rA : RegNo) (rB : RegNo) (rC : RegNo) (uf : Bool) (s : State) : Out :=
  s.resultWord .mulSigned rA uf (s.x rB) (s.x rC) (mulSigned (s.x rB) (s.x rC))

/-- MUIS, "Multiply Immediate Signed": 41_multiply_divide_modulus.md R227. -/
def execMuis (rA : RegNo) (rB : RegNo) (imm : BitVec 7) (uf : Bool) (s : State) : Out :=
  s.resultWord .mulSigned rA uf (s.x rB) (sext 27 imm) (mulSigned (s.x rB) (sext 27 imm))

/-- MUSM, "Multiply Signed Multi Reg": 41_multiply_divide_modulus.md R228. -/
def execMusm (rA : RegNo) (rB : RegNo) (rC : RegNo) (uf : Bool) (s : State) : Out :=
  s.resultPair .mulSigned rA uf (s.xx rB) (s.xx rC) (mulSigned (s.xx rB) (s.xx rC))

/-- MUISM, "Multiply Immediate Signed Multi Reg": 41_multiply_divide_modulus.md R229. -/
def execMuism (rA : RegNo) (rB : RegNo) (imm : BitVec 7) (uf : Bool) (s : State) : Out :=
  s.resultPair .mulSigned rA uf (s.xx rB) (sext 54 imm) (mulSigned (s.xx rB) (sext 54 imm))

/-- DV, "Divide": 41_multiply_divide_modulus.md R230. -/
def execDv (rA : RegNo) (rB : RegNo) (rC : RegNo) (uf : Bool) (s : State) : Out :=
  s.divideWord .div rA uf (s.x rB) (s.x rC) (divUnsigned (s.x rB) (s.x rC))

/-- DVI, "Divide Immediate": 41_multiply_divide_modulus.md R231. -/
def execDvi (rA : RegNo) (rB : RegNo) (imm : BitVec 7) (uf : Bool) (s : State) : Out :=
  s.divideWord .div rA uf (s.x rB) (zext 27 imm) (divUnsigned (s.x rB) (zext 27 imm))

/-- DVM, "Divide Multi Reg": 41_multiply_divide_modulus.md R232. -/
def execDvm (rA : RegNo) (rB : RegNo) (rC : RegNo) (uf : Bool) (s : State) : Out :=
  s.dividePair .div rA uf (s.xx rB) (s.xx rC) (divUnsigned (s.xx rB) (s.xx rC))

/-- DVIM, "Divide Immediate Multi Reg": 41_multiply_divide_modulus.md R233. -/
def execDvim (rA : RegNo) (rB : RegNo) (imm : BitVec 7) (uf : Bool) (s : State) : Out :=
  s.dividePair .div rA uf (s.xx rB) (zext 54 imm) (divUnsigned (s.xx rB) (zext 54 imm))

/-- DVS, "Divide Signed": 41_multiply_divide_modulus.md R234. -/
def execDvs (rA : RegNo) (rB : RegNo) (rC : RegNo) (uf : Bool) (s : State) : Out :=
  s.divideWord .divSigned rA uf (s.x rB) (s.x rC) (divSigned s.divOver.quotient27 (s.x rB) (s.x rC))

/-- DVIS, "Divide Immediate Signed": 41_multiply_divide_modulus.md R235. -/
def execDvis (rA : RegNo) (rB : RegNo) (imm : BitVec 7) (uf : Bool) (s : State) : Out :=
  s.divideWord .divSigned rA uf (s.x rB) (sext 27 imm) (divSigned s.divOver.quotient27 (s.x rB) (sext 27 imm))

/-- DVSM, "Divide Signed Multi Reg": 41_multiply_divide_modulus.md R236. -/
def execDvsm (rA : RegNo) (rB : RegNo) (rC : RegNo) (uf : Bool) (s : State) : Out :=
  s.dividePair .divSigned rA uf (s.xx rB) (s.xx rC) (divSigned s.divOver.quotient54 (s.xx rB) (s.xx rC))

/-- DVISM, "Divide Immediate Signed Multi Reg": 41_multiply_divide_modulus.md R237. -/
def execDvism (rA : RegNo) (rB : RegNo) (imm : BitVec 7) (uf : Bool) (s : State) : Out :=
  s.dividePair .divSigned rA uf (s.xx rB) (sext 54 imm) (divSigned s.divOver.quotient54 (s.xx rB) (sext 54 imm))

/-- MD, "Modulus": 41_multiply_divide_modulus.md R238. -/
def execMd (rA : RegNo) (rB : RegNo) (rC : RegNo) (uf : Bool) (s : State) : Out :=
  s.divideWord .mod rA uf (s.x rB) (s.x rC) (modUnsigned (s.x rB) (s.x rC))

/-- MDI, "Modulus Immediate": 41_multiply_divide_modulus.md R239. -/
def execMdi (rA : RegNo) (rB : RegNo) (imm : BitVec 7) (uf : Bool) (s : State) : Out :=
  s.divideWord .mod rA uf (s.x rB) (zext 27 imm) (modUnsigned (s.x rB) (zext 27 imm))

/-- MDM, "Modulus Multi Reg": 41_multiply_divide_modulus.md R240. -/
def execMdm (rA : RegNo) (rB : RegNo) (rC : RegNo) (uf : Bool) (s : State) : Out :=
  s.dividePair .mod rA uf (s.xx rB) (s.xx rC) (modUnsigned (s.xx rB) (s.xx rC))

/-- MDIM, "Modulus Immediate Multi Reg": 41_multiply_divide_modulus.md R241. -/
def execMdim (rA : RegNo) (rB : RegNo) (imm : BitVec 7) (uf : Bool) (s : State) : Out :=
  s.dividePair .mod rA uf (s.xx rB) (zext 54 imm) (modUnsigned (s.xx rB) (zext 54 imm))

/-- MDS, "Modulus Signed": 41_multiply_divide_modulus.md R242. -/
def execMds (rA : RegNo) (rB : RegNo) (rC : RegNo) (uf : Bool) (s : State) : Out :=
  s.divideWord .modSigned rA uf (s.x rB) (s.x rC) (modSigned s.divOver.remainder27 (s.x rB) (s.x rC))

/-- MDIS, "Modulus Immediate Signed": 41_multiply_divide_modulus.md R243. -/
def execMdis (rA : RegNo) (rB : RegNo) (imm : BitVec 7) (uf : Bool) (s : State) : Out :=
  s.divideWord .modSigned rA uf (s.x rB) (sext 27 imm) (modSigned s.divOver.remainder27 (s.x rB) (sext 27 imm))

/-- MDSM, "Modulus Signed Multi Reg": 41_multiply_divide_modulus.md R244. -/
def execMdsm (rA : RegNo) (rB : RegNo) (rC : RegNo) (uf : Bool) (s : State) : Out :=
  s.dividePair .modSigned rA uf (s.xx rB) (s.xx rC) (modSigned s.divOver.remainder54 (s.xx rB) (s.xx rC))

/-- MDISM, "Modulus Immediate Signed Multi Reg": 41_multiply_divide_modulus.md R245. -/
def execMdism (rA : RegNo) (rB : RegNo) (imm : BitVec 7) (uf : Bool) (s : State) : Out :=
  s.dividePair .modSigned rA uf (s.xx rB) (sext 54 imm) (modSigned s.divOver.remainder54 (s.xx rB) (sext 54 imm))

end Sys2Proof.Machine
end

