-- ==== Sys2Proof/Machine/Shift.lean ====
section
/-! DEFINITION. The meanings of the shift and rotate instructions (43_shift_rotate.md). -/

namespace Sys2Proof.Machine

/-- SL, "Shift Left": 43_shift_rotate.md R272. -/
def execSl (rA : RegNo) (rB : RegNo) (rC : RegNo) (uf : Bool) (s : State) : Out :=
  s.shiftWord .shiftLeft rA uf (s.x rB) (s.x rC).toNat

/-- SLI, "Shift Left Immediate": 43_shift_rotate.md R273. -/
def execSli (rA : RegNo) (rB : RegNo) (imm : BitVec 7) (uf : Bool) (s : State) : Out :=
  s.shiftWord .shiftLeft rA uf (s.x rB) imm.toNat

/-- SLM, "Shift Left Multi Reg": 43_shift_rotate.md R274. -/
def execSlm (rA : RegNo) (rB : RegNo) (rC : RegNo) (uf : Bool) (s : State) : Out :=
  s.shiftPair .shiftLeft rA uf (s.xx rB) (s.x rC).toNat

/-- SLIM, "Shift Left Immediate Multi Reg": 43_shift_rotate.md R275. -/
def execSlim (rA : RegNo) (rB : RegNo) (imm : BitVec 7) (uf : Bool) (s : State) : Out :=
  s.shiftPair .shiftLeft rA uf (s.xx rB) imm.toNat

/-- SR, "Shift Right": 43_shift_rotate.md R276. -/
def execSr (rA : RegNo) (rB : RegNo) (rC : RegNo) (uf : Bool) (s : State) : Out :=
  s.shiftWord .shiftRight rA uf (s.x rB) (s.x rC).toNat

/-- SRI, "Shift Right Immediate": 43_shift_rotate.md R277. -/
def execSri (rA : RegNo) (rB : RegNo) (imm : BitVec 7) (uf : Bool) (s : State) : Out :=
  s.shiftWord .shiftRight rA uf (s.x rB) imm.toNat

/-- SRM, "Shift Right Multi Reg": 43_shift_rotate.md R278. -/
def execSrm (rA : RegNo) (rB : RegNo) (rC : RegNo) (uf : Bool) (s : State) : Out :=
  s.shiftPair .shiftRight rA uf (s.xx rB) (s.x rC).toNat

/-- SRIM, "Shift Right Immediate Multi Reg": 43_shift_rotate.md R279. -/
def execSrim (rA : RegNo) (rB : RegNo) (imm : BitVec 7) (uf : Bool) (s : State) : Out :=
  s.shiftPair .shiftRight rA uf (s.xx rB) imm.toNat

/-- SA, "Shift Arithemetic Right": 43_shift_rotate.md R280. -/
def execSa (rA : RegNo) (rB : RegNo) (rC : RegNo) (uf : Bool) (s : State) : Out :=
  s.shiftWord .shiftArith rA uf (s.x rB) (s.x rC).toNat

/-- SAI, "Shift Arithemetic Right Immediate": 43_shift_rotate.md R281. -/
def execSai (rA : RegNo) (rB : RegNo) (imm : BitVec 7) (uf : Bool) (s : State) : Out :=
  s.shiftWord .shiftArith rA uf (s.x rB) imm.toNat

/-- SAM, "Shift Arithemetic Right Multi Reg": 43_shift_rotate.md R282. -/
def execSam (rA : RegNo) (rB : RegNo) (rC : RegNo) (uf : Bool) (s : State) : Out :=
  s.shiftPair .shiftArith rA uf (s.xx rB) (s.x rC).toNat

/-- SAIM, "Shift Arithemetic Right Immediate Multi Reg": 43_shift_rotate.md R283. -/
def execSaim (rA : RegNo) (rB : RegNo) (imm : BitVec 7) (uf : Bool) (s : State) : Out :=
  s.shiftPair .shiftArith rA uf (s.xx rB) imm.toNat

/-- RL, "Rotate Left": 43_shift_rotate.md R284. -/
def execRl (rA : RegNo) (rB : RegNo) (rC : RegNo) (uf : Bool) (s : State) : Out :=
  s.shiftWord .rotateLeft rA uf (s.x rB) (s.x rC).toNat

/-- RLI, "Rotate Left Immediate": 43_shift_rotate.md R285. -/
def execRli (rA : RegNo) (rB : RegNo) (imm : BitVec 7) (uf : Bool) (s : State) : Out :=
  s.shiftWord .rotateLeft rA uf (s.x rB) imm.toNat

/-- RLM, "Rotate Left Multi Reg": 43_shift_rotate.md R286. -/
def execRlm (rA : RegNo) (rB : RegNo) (rC : RegNo) (uf : Bool) (s : State) : Out :=
  s.shiftPair .rotateLeft rA uf (s.xx rB) (s.x rC).toNat

/-- RLIM, "Rotate Left Immediate Multi Reg": 43_shift_rotate.md R287. -/
def execRlim (rA : RegNo) (rB : RegNo) (imm : BitVec 7) (uf : Bool) (s : State) : Out :=
  s.shiftPair .rotateLeft rA uf (s.xx rB) imm.toNat

/-- RR, "Rotate Right": 43_shift_rotate.md R288. -/
def execRr (rA : RegNo) (rB : RegNo) (rC : RegNo) (uf : Bool) (s : State) : Out :=
  s.shiftWord .rotateRight rA uf (s.x rB) (s.x rC).toNat

/-- RRI, "Rotate Right Immediate": 43_shift_rotate.md R289. -/
def execRri (rA : RegNo) (rB : RegNo) (imm : BitVec 7) (uf : Bool) (s : State) : Out :=
  s.shiftWord .rotateRight rA uf (s.x rB) imm.toNat

/-- RRM, "Rotate Right Multi Reg": 43_shift_rotate.md R290. -/
def execRrm (rA : RegNo) (rB : RegNo) (rC : RegNo) (uf : Bool) (s : State) : Out :=
  s.shiftPair .rotateRight rA uf (s.xx rB) (s.x rC).toNat

/-- RRIM, "Rotate Right Immediate Multi Reg": 43_shift_rotate.md R291. -/
def execRrim (rA : RegNo) (rB : RegNo) (imm : BitVec 7) (uf : Bool) (s : State) : Out :=
  s.shiftPair .rotateRight rA uf (s.xx rB) imm.toNat

end Sys2Proof.Machine
end

