-- ==== Sys2Proof/Machine/System.lean ====
section
/-! DEFINITION. The meanings of the system instructions (49_system.md). -/

namespace Sys2Proof.Machine

/-- The nine enable bits of FLAGS (49_system.md R400). -/
def enableBits : Word := 0x1FF0#27

/-- Every other bit of FLAGS (49_system.md R400). -/
def enableKeep : Word := 0x7FFE00F#27

/-- EI, "Enable Interrupts": 49_system.md R401. The nine enables are replaced as a group. -/
def execEi (rA : RegNo) (s : State) : Out :=
  .next ((s.setFlags ((s.flags &&& enableKeep) ||| ((s.x rA <<< 4) &&& enableBits))).advance 2)

/-- DI, "Disable Interrupts": 49_system.md R402. The nine enables are replaced as a group by the complement. -/
def execDi (rA : RegNo) (s : State) : Out :=
  .next ((s.setFlags ((s.flags &&& enableKeep) ||| ((~~~(s.x rA) <<< 4) &&& enableBits))).advance 2)

/-- HT, "Halt": 49_system.md R403. The program counter stays at HT (log 31). -/
def execHt (s : State) : Out := .next { s.setFlags (s.flags &&& enableKeep) with runState := .halted }

/-- IR, "Interrupt Return": 49_system.md R404. The return from an interrupt or exception. -/
def execIr (s : State) : Out := s.interruptReturn

/-- RF, "Read Flags": 49_system.md R405. -/
def execRf (rA : RegNo) (s : State) : Out := s.writeWord rA 2 s.flags .keep 0

/-- SF, "Set Flags": 49_system.md R406. -/
def execSf (rA : RegNo) (s : State) : Out := .next ((s.setFlags (s.x rA &&& 0x7FFFFFF#27)).advance 2)

/-- SMP, "Set Memory Protection": 49_system.md R407. Only Z of the flags is written. -/
def execSmp (rA : RegNo) (rB : RegNo) (prot : Prot) (s : State) : Out := s.setProtection rA rB prot

/-- RMP, "Read Memory Protection": 49_system.md R408. Only Z of the flags is written. -/
def execRmp (rA : RegNo) (rB : RegNo) (s : State) : Out := s.readProtection rA rB

/-- WT, "Wait": 49_system.md R409. The core waits at the next instruction until an interrupt is taken. -/
def execWt (s : State) : Out := .next { s.advance 2 with runState := .waiting }

/-- DBRK, "Debug Break": 49_system.md R410. Normal execution is an illegal instruction fault. -/
def execDbrk (s : State) : Out := s.raise .invalidInstruction (some 2)

end Sys2Proof.Machine
end

