-- ==== Sys2Proof/Machine/Dispatch.lean ====
section
/-! DEFINITION. Dispatch: one arm for each instruction, each one direct call of its meaning. -/

namespace Sys2Proof.Machine

def exec (i : Instr) (s : State) : Host.Outcome State Fault Refusal :=
  match i with
  -- 40_add_subtract.md
  | .ad rA rB rC uf => Sys2Proof.Machine.execAd rA rB rC uf s
  | .adi rA rB imm uf => Sys2Proof.Machine.execAdi rA rB imm uf s
  | .adm rA rB rC uf => Sys2Proof.Machine.execAdm rA rB rC uf s
  | .adim rA rB imm uf => Sys2Proof.Machine.execAdim rA rB imm uf s
  | .adc rA rB rC uf => Sys2Proof.Machine.execAdc rA rB rC uf s
  | .adci rA rB imm uf => Sys2Proof.Machine.execAdci rA rB imm uf s
  | .adcm rA rB rC uf => Sys2Proof.Machine.execAdcm rA rB rC uf s
  | .adcim rA rB imm uf => Sys2Proof.Machine.execAdcim rA rB imm uf s
  | .sb rA rB rC uf => Sys2Proof.Machine.execSb rA rB rC uf s
  | .sbi rA rB imm uf => Sys2Proof.Machine.execSbi rA rB imm uf s
  | .sbm rA rB rC uf => Sys2Proof.Machine.execSbm rA rB rC uf s
  | .sbim rA rB imm uf => Sys2Proof.Machine.execSbim rA rB imm uf s
  | .sbc rA rB rC uf => Sys2Proof.Machine.execSbc rA rB rC uf s
  | .sbci rA rB imm uf => Sys2Proof.Machine.execSbci rA rB imm uf s
  | .sbcm rA rB rC uf => Sys2Proof.Machine.execSbcm rA rB rC uf s
  | .sbcim rA rB imm uf => Sys2Proof.Machine.execSbcim rA rB imm uf s
  -- 41_multiply_divide_modulus.md
  | .mu rA rB rC uf => Sys2Proof.Machine.execMu rA rB rC uf s
  | .mui rA rB imm uf => Sys2Proof.Machine.execMui rA rB imm uf s
  | .mum rA rB rC uf => Sys2Proof.Machine.execMum rA rB rC uf s
  | .muim rA rB imm uf => Sys2Proof.Machine.execMuim rA rB imm uf s
  | .mus rA rB rC uf => Sys2Proof.Machine.execMus rA rB rC uf s
  | .muis rA rB imm uf => Sys2Proof.Machine.execMuis rA rB imm uf s
  | .musm rA rB rC uf => Sys2Proof.Machine.execMusm rA rB rC uf s
  | .muism rA rB imm uf => Sys2Proof.Machine.execMuism rA rB imm uf s
  | .dv rA rB rC uf => Sys2Proof.Machine.execDv rA rB rC uf s
  | .dvi rA rB imm uf => Sys2Proof.Machine.execDvi rA rB imm uf s
  | .dvm rA rB rC uf => Sys2Proof.Machine.execDvm rA rB rC uf s
  | .dvim rA rB imm uf => Sys2Proof.Machine.execDvim rA rB imm uf s
  | .dvs rA rB rC uf => Sys2Proof.Machine.execDvs rA rB rC uf s
  | .dvis rA rB imm uf => Sys2Proof.Machine.execDvis rA rB imm uf s
  | .dvsm rA rB rC uf => Sys2Proof.Machine.execDvsm rA rB rC uf s
  | .dvism rA rB imm uf => Sys2Proof.Machine.execDvism rA rB imm uf s
  | .md rA rB rC uf => Sys2Proof.Machine.execMd rA rB rC uf s
  | .mdi rA rB imm uf => Sys2Proof.Machine.execMdi rA rB imm uf s
  | .mdm rA rB rC uf => Sys2Proof.Machine.execMdm rA rB rC uf s
  | .mdim rA rB imm uf => Sys2Proof.Machine.execMdim rA rB imm uf s
  | .mds rA rB rC uf => Sys2Proof.Machine.execMds rA rB rC uf s
  | .mdis rA rB imm uf => Sys2Proof.Machine.execMdis rA rB imm uf s
  | .mdsm rA rB rC uf => Sys2Proof.Machine.execMdsm rA rB rC uf s
  | .mdism rA rB imm uf => Sys2Proof.Machine.execMdism rA rB imm uf s
  -- 42_logic_negate.md
  | .an rA rB rC uf => Sys2Proof.Machine.execAn rA rB rC uf s
  | .ani rA rB imm uf => Sys2Proof.Machine.execAni rA rB imm uf s
  | .anm rA rB rC uf => Sys2Proof.Machine.execAnm rA rB rC uf s
  | .or rA rB rC uf => Sys2Proof.Machine.execOr rA rB rC uf s
  | .ori rA rB imm uf => Sys2Proof.Machine.execOri rA rB imm uf s
  | .orm rA rB rC uf => Sys2Proof.Machine.execOrm rA rB rC uf s
  | .xr rA rB rC uf => Sys2Proof.Machine.execXr rA rB rC uf s
  | .xri rA rB imm uf => Sys2Proof.Machine.execXri rA rB imm uf s
  | .xrm rA rB rC uf => Sys2Proof.Machine.execXrm rA rB rC uf s
  | .bf rA rB uf => Sys2Proof.Machine.execBf rA rB uf s
  | .bfm rA rB uf => Sys2Proof.Machine.execBfm rA rB uf s
  | .ng rA rB uf => Sys2Proof.Machine.execNg rA rB uf s
  | .ngm rA rB uf => Sys2Proof.Machine.execNgm rA rB uf s
  | .nt rA rB uf => Sys2Proof.Machine.execNt rA rB uf s
  | .ntm rA rB uf => Sys2Proof.Machine.execNtm rA rB uf s
  -- 43_shift_rotate.md
  | .sl rA rB rC uf => Sys2Proof.Machine.execSl rA rB rC uf s
  | .sli rA rB imm uf => Sys2Proof.Machine.execSli rA rB imm uf s
  | .slm rA rB rC uf => Sys2Proof.Machine.execSlm rA rB rC uf s
  | .slim rA rB imm uf => Sys2Proof.Machine.execSlim rA rB imm uf s
  | .sr rA rB rC uf => Sys2Proof.Machine.execSr rA rB rC uf s
  | .sri rA rB imm uf => Sys2Proof.Machine.execSri rA rB imm uf s
  | .srm rA rB rC uf => Sys2Proof.Machine.execSrm rA rB rC uf s
  | .srim rA rB imm uf => Sys2Proof.Machine.execSrim rA rB imm uf s
  | .sa rA rB rC uf => Sys2Proof.Machine.execSa rA rB rC uf s
  | .sai rA rB imm uf => Sys2Proof.Machine.execSai rA rB imm uf s
  | .sam rA rB rC uf => Sys2Proof.Machine.execSam rA rB rC uf s
  | .saim rA rB imm uf => Sys2Proof.Machine.execSaim rA rB imm uf s
  | .rl rA rB rC uf => Sys2Proof.Machine.execRl rA rB rC uf s
  | .rli rA rB imm uf => Sys2Proof.Machine.execRli rA rB imm uf s
  | .rlm rA rB rC uf => Sys2Proof.Machine.execRlm rA rB rC uf s
  | .rlim rA rB imm uf => Sys2Proof.Machine.execRlim rA rB imm uf s
  | .rr rA rB rC uf => Sys2Proof.Machine.execRr rA rB rC uf s
  | .rri rA rB imm uf => Sys2Proof.Machine.execRri rA rB imm uf s
  | .rrm rA rB rC uf => Sys2Proof.Machine.execRrm rA rB rC uf s
  | .rrim rA rB imm uf => Sys2Proof.Machine.execRrim rA rB imm uf s
  -- 44_move_extend_random.md
  | .mh rA imm => Sys2Proof.Machine.execMh rA imm s
  | .ml rA imm => Sys2Proof.Machine.execMl rA imm s
  | .ms rA imm => Sys2Proof.Machine.execMs rA imm s
  | .ses rA rB => Sys2Proof.Machine.execSes rA rB s
  | .sew rA rB => Sys2Proof.Machine.execSew rA rB s
  | .zes rA rB => Sys2Proof.Machine.execZes rA rB s
  | .zew rA rB => Sys2Proof.Machine.execZew rA rB s
  | .rnd rA uf => Sys2Proof.Machine.execRnd rA uf s
  | .rndm rA uf => Sys2Proof.Machine.execRndm rA uf s
  -- 45_compare.md
  | .cm rA rB => Sys2Proof.Machine.execCm rA rB s
  | .cmi rA imm => Sys2Proof.Machine.execCmi rA imm s
  | .cmm rA rB => Sys2Proof.Machine.execCmm rA rB s
  | .cmim rA imm => Sys2Proof.Machine.execCmim rA imm s
  -- 46_branch_call.md
  | .b cond offset => Sys2Proof.Machine.execB cond offset s
  | .br cond rA => Sys2Proof.Machine.execBr cond rA s
  | .bra location => Sys2Proof.Machine.execBra location s
  | .brr offset => Sys2Proof.Machine.execBrr offset s
  | .c cond offset => Sys2Proof.Machine.execC cond offset s
  | .cr cond rA => Sys2Proof.Machine.execCr cond rA s
  | .caa location => Sys2Proof.Machine.execCaa location s
  | .car offset => Sys2Proof.Machine.execCar offset s
  | .re => Sys2Proof.Machine.execRe s
  -- 47_load_store.md
  | .lds rA rB count mode offset => Sys2Proof.Machine.execLds rA rB count mode offset s
  | .ldw rA rB count mode offset => Sys2Proof.Machine.execLdw rA rB count mode offset s
  | .ldt rA rB count mode offset => Sys2Proof.Machine.execLdt rA rB count mode offset s
  | .sts rA rB count mode offset => Sys2Proof.Machine.execSts rA rB count mode offset s
  | .stw rA rB count mode offset => Sys2Proof.Machine.execStw rA rB count mode offset s
  | .stt rA rB count mode offset => Sys2Proof.Machine.execStt rA rB count mode offset s
  | .dmt rA rB rC => Sys2Proof.Machine.execDmt rA rB rC s
  -- 48_float.md
  | .adf rA rB rC uf => Sys2Proof.Machine.execAdf rA rB rC uf s
  | .adfm rA rB rC uf => Sys2Proof.Machine.execAdfm rA rB rC uf s
  | .sbf rA rB rC uf => Sys2Proof.Machine.execSbf rA rB rC uf s
  | .sbfm rA rB rC uf => Sys2Proof.Machine.execSbfm rA rB rC uf s
  | .muf rA rB rC uf => Sys2Proof.Machine.execMuf rA rB rC uf s
  | .mufm rA rB rC uf => Sys2Proof.Machine.execMufm rA rB rC uf s
  | .dvf rA rB rC uf => Sys2Proof.Machine.execDvf rA rB rC uf s
  | .dvfm rA rB rC uf => Sys2Proof.Machine.execDvfm rA rB rC uf s
  | .mdf rA rB rC uf => Sys2Proof.Machine.execMdf rA rB rC uf s
  | .mdfm rA rB rC uf => Sys2Proof.Machine.execMdfm rA rB rC uf s
  | .cmf rA rB => Sys2Proof.Machine.execCmf rA rB s
  | .cmfm rA rB => Sys2Proof.Machine.execCmfm rA rB s
  | .ngf rA rB uf => Sys2Proof.Machine.execNgf rA rB uf s
  | .ngfm rA rB uf => Sys2Proof.Machine.execNgfm rA rB uf s
  | .itf rA rB => Sys2Proof.Machine.execItf rA rB s
  | .itfm rA rB => Sys2Proof.Machine.execItfm rA rB s
  | .fti rA rB => Sys2Proof.Machine.execFti rA rB s
  | .ftim rA rB => Sys2Proof.Machine.execFtim rA rB s
  -- 49_system.md
  | .ei rA => Sys2Proof.Machine.execEi rA s
  | .di rA => Sys2Proof.Machine.execDi rA s
  | .ht => Sys2Proof.Machine.execHt s
  | .ir => Sys2Proof.Machine.execIr s
  | .rf rA => Sys2Proof.Machine.execRf rA s
  | .sf rA => Sys2Proof.Machine.execSf rA s
  | .smp rA rB prot => Sys2Proof.Machine.execSmp rA rB prot s
  | .rmp rA rB => Sys2Proof.Machine.execRmp rA rB s
  | .wt => Sys2Proof.Machine.execWt s
  | .dbrk => Sys2Proof.Machine.execDbrk s

end Sys2Proof.Machine
end

