-- ==== Sys2Proof/Machine/Fetch.lean ====
section
/-! DEFINITION. What one step does around an instruction: the boundary where interrupts are taken, and fetch and decode. -/

namespace Sys2Proof.Machine

/-! ## The instruction boundary (60_exceptions.md R503, R504, R513) -/

/-- The events that external agents make pending at this boundary are consumed; only asynchronous numbers can be
(60_exceptions.md R503; log 21). -/
def State.atBoundary (s : State) : State :=
  { s with pending := s.pending ||| (s.arrivals.headD 0#9 &&& asyncMask), arrivals := s.arrivals.tail }

/-- Interrupt `n` is pending and enabled, so it can be taken (60_exceptions.md R504). -/
def State.ready (s : State) (n : IntNo) : Bool := isAsync n && s.pending.getLsbD n.val && s.enabled n

/-- The interrupt taken at a boundary: the first of `IntPriority` that is ready (60_exceptions.md R513; log 32). -/
def State.chosen (s : State) : Option IntNo := s.settings.intPriority.order.find? s.ready

/-! ## Fetch and decode (60_exceptions.md R506) -/

/-- Decode and run the instruction of `len` bytes whose bytes have been fetched: an undefined encoding raises
InvalidInstruction (60_exceptions.md R507). -/
def State.runBytes (s : State) (len : Nat) (bytes : List Byte) : Out :=
  match decode s.settings bytes with
  | .ok (i, _) => exec i s
  | .error _ => s.raise .invalidInstruction (some len)

/-- Fetch the bytes after the first two, each with fetch permission, then run the instruction. -/
def State.fetchRest (s : State) (len : Nat) (first : List Byte) : Out :=
  match s.readBytes .fetch (len - 2) (s.pc + 2) with
  | .ok rest => s.runBytes len (first ++ rest)
  | .denied k a => s.raise (.memoryException k a) (some len)
  | .stopped f => .fault f
  | .refused r => .refused r

/-- The length when no length is known: an InvalidInstruction then saves pc + 2 under `ExcReturnPC = next`
(60_exceptions.md R511). -/
def undefinedLength : Nat := 2

/-- Fetch and run the instruction at pc: two bytes tell the length (30_encoding.md R102), or raise InvalidInstruction
without reading further (60_exceptions.md R506). -/
def State.fetchExec (s : State) : Out :=
  match s.readBytes .fetch 2 s.pc with
  | .ok first =>
    match lengthOf (wordOfBytes s.settings.fetchOrder first) with
    | some len => s.fetchRest len first
    | none => s.raise .invalidInstruction (some undefinedLength)
  | .denied k a => s.raise (.memoryException k a) none
  | .stopped f => .fault f
  | .refused r => .refused r

/-- One step of a core that is Running or Waiting, after the boundary's events: take an interrupt with the current pc as
return address, or run an instruction, or go on waiting (60_exceptions.md R504). -/
def State.stepAt (s : State) : Out :=
  match s.chosen with
  | some n => .next (s.trapEntry n s.pc)
  | none => if s.runState = .waiting then .next s else s.fetchExec

/-- One step: nothing is taken or run in Halted, and Faulted is stuck (60_exceptions.md R504, R512). -/
def State.stepCore (s : State) : Out :=
  match s.runState with
  | .faulted => .fault .coreFaulted
  | .halted => .next s
  | .running => s.atBoundary.stepAt
  | .waiting => s.atBoundary.stepAt

/-! ## Placing an instruction where the next step fetches it (log 22) -/

/-- A protection value that allows fetching, by default 3. -/
def fetchableProt (p : Perm) : Prot := ([3#2, 2#2, 1#2, 0#2].find? fun v => permAllows p v .fetch).getD 3#2

/-- Put bytes at ascending addresses, each in a page that allows fetching. -/
def State.placeBytes (s : State) (a : Addr) : List Byte → State
  | [] => s
  | b :: l =>
    let t := s.putByte a b
    State.placeBytes { t with prot := t.prot.withRange (pageOf a) 1 (fetchableProt t.settings.perm) } (a + 1) l

/-- The state whose very next step runs the instruction of these bytes: a Running core with no event outstanding and no byte
stored since its program was loaded, the bytes at pc. -/
def State.placeInstruction (s : State) (bytes : List Byte) : State :=
  { s.placeBytes s.pc bytes with stored := [], runState := .running, pending := 0#9, arrivals := [] }

/-- The bytes, in memory order, of an opcode-table word: the length is `nbits` rounded to the machine's 9-bit bytes. -/
def tableBytes (o : FetchOrder) (nbits w : Nat) : List Byte :=
  bytesOfWord o (if nbits ≤ 24 then 2 else if nbits ≤ 32 then 3 else if nbits ≤ 48 then 4 else 6) w

end Sys2Proof.Machine
end

