-- ==== Sys2Proof/Machine/Step.lean ====
section
/-! DEFINITION. The step function, and where an instruction is placed so that the next step runs it. -/

namespace Sys2Proof.Machine

/-- One step of the machine: an interrupt is taken, or an instruction runs, or the core waits or is at rest. -/
def step (s : State) : Host.Outcome State Fault Refusal := s.stepCore

/-- The state with an opcode-table word stored where the next step fetches, in pages that allow fetching. -/
def State.withFetchWord (s : State) (nbits w : Nat) : State := s.placeInstruction (tableBytes s.settings.fetchOrder nbits w)

end Sys2Proof.Machine
end

