-- ==== Sys2Proof/Safety.lean ====
section
/-! DEFINITION. What a sound state is: the invariant that every step keeps. -/

namespace Sys2Proof.Machine

/-- Every listed byte lies in plain memory of the map: no store reaches a device or an unmapped address (20_memory.md R68). -/
abbrev Memory.plainOnly (m : Memory) (map : MemMap) : Prop := ∀ e ∈ m, isPlain map (BitVec.ofNat 27 e.1) = true

/-- Only asynchronous interrupts are pending (60_exceptions.md R503). -/
abbrev State.pendingLegal (s : State) : Prop := s.pending &&& ~~~asyncMask = 0#9

/-- The state invariant: memory, the protection table and the set of stored addresses keep their canonical forms, memory
is listed only where the address map has plain memory, and only asynchronous interrupts are pending. -/
structure State.Inv (s : State) : Prop where
  memWf : s.mem.wf
  memPlain : s.mem.plainOnly s.settings.memMap
  storedWf : s.stored.wf
  protWf : s.prot.wf
  pendingLegal : s.pendingLegal

/-- A launch configuration is sound: its memory and protections are in canonical form, and its program image lies in plain
memory (70_reset_and_hazards.md R603). -/
structure Launch.Sound (c : Launch) : Prop where
  memWf : c.mem.wf
  memPlain : c.mem.plainOnly c.settings.memMap
  protWf : c.prot.wf

/-- The outcome is a next state. -/
def Completes (o : Out) : Prop := ∃ t, o = .next t

end Sys2Proof.Machine
end

