-- ==== Sys2Proof/Certificates/Slice0/Obligations.lean ====
section
/-! DEFINITION. The statements for the provers, and the predicates they are written with. -/

namespace Sys2Proof.Machine.Claim

/-! ## What stays the same -/

/-- Every byte of memory reads as before, and none is newly marked as stored. -/
def SameMemory (s t : State) : Prop :=
  (∀ a : Addr, t.mem.byteAt a = s.mem.byteAt a) ∧ ∀ a : Addr, t.stored.has a = s.stored.has a

/-- Every page has the protection it had. -/
def SameProtection (s t : State) : Prop := ∀ p : Nat, t.prot.ofPage p = s.prot.ofPage p

/-- Pending interrupts, run state, settings and the coming external events are as before. -/
def SameMachine (s t : State) : Prop :=
  t.pending = s.pending ∧ t.runState = s.runState ∧ t.settings = s.settings ∧ t.arrivals = s.arrivals

/-- Everything but the registers and the model's draw counter is as before. -/
def SameRest (s t : State) : Prop := SameMemory s t ∧ SameProtection s t ∧ SameMachine s t

/-- Every register but the program counter reads as before (FLAGS too). -/
def SameRegisters (s t : State) : Prop := ∀ q : RegNo, q ≠ s.pcReg → t.x q = s.x q

/-! ## What happens to a flag -/

/-- The status flags of a state: the bits of FLAGS that `FlagBits` names. -/
def zOf (s : State) : Bool := s.flags.getLsbD s.settings.flagBits.z.val

/-- The carry flag. -/
def cOf (s : State) : Bool := s.flags.getLsbD s.settings.flagBits.c.val

/-- The overflow flag. -/
def oOf (s : State) : Bool := s.flags.getLsbD s.settings.flagBits.o.val

/-- The signed flag. -/
def sOf (s : State) : Bool := s.flags.getLsbD s.settings.flagBits.s.val

/-- A status flag after an instruction: kept, given a value, or left open by the spec (a drawn bit, about which nothing is
said). -/
inductive FlagIs where
  | kept
  | val (b : Bool)
  | free

/-- The flag's bit before and after. -/
def FlagIs.Holds (x : FlagIs) (before after : Bool) : Prop :=
  match x with
  | .kept => after = before
  | .val b => after = b
  | .free => True

/-- The four status flags as said, every other bit of FLAGS as in `before`. -/
def FlagsAre (p : FlagBits) (before after : Word) (z c o sg : FlagIs) : Prop :=
  z.Holds (before.getLsbD p.z.val) (after.getLsbD p.z.val) ∧ c.Holds (before.getLsbD p.c.val) (after.getLsbD p.c.val) ∧
    o.Holds (before.getLsbD p.o.val) (after.getLsbD p.o.val) ∧ sg.Holds (before.getLsbD p.s.val) (after.getLsbD p.s.val) ∧
      ∀ j, 4 ≤ j → after.getLsbD j = before.getLsbD j

/-- A flag that the UF bit gates. -/
def ufVal (uf : Bool) (b : Bool) : FlagIs := if uf then .val b else .kept

/-- C or O of an operation with no formula for it: `v`, which the function of `FlagCO` gives, or open when it is drawn. -/
def coVal (s : State) (v : Bool) : FlagIs :=
  match s.settings.flagCO with
  | .draw => .free
  | .function => .val v

/-- The same, gated by the UF bit. -/
def ufCO (s : State) (uf : Bool) (v : Bool) : FlagIs := if uf then coVal s v else .kept

/-- A flag of an instruction with no UF field, under `NoUFFlagPolicy`: `always` writes what `x` says. -/
def policy (s : State) (x : FlagIs) : FlagIs :=
  match s.settings.noUFFlagPolicy with
  | .always => x
  | .never => .kept
  | .draw => .free

/-! ## Results written to registers -/

/-- The instruction of `len` bytes wrote `r` to rA (not the program counter), then the flags: a result in FLAGS is FLAGS
before the flag update. Nothing else changed. -/
def WroteWord (s t : State) (rA : RegNo) (len : Nat) (r : Word) (z c o sg : FlagIs) : Prop :=
  (rA ≠ s.flagsReg → t.x rA = r) ∧ (∀ q, q ≠ rA → q ≠ s.flagsReg → q ≠ s.pcReg → t.x q = s.x q) ∧
    FlagsAre s.settings.flagBits (if rA = s.flagsReg then r else s.flags) t.flags z c o sg ∧
      t.pc = s.pc + BitVec.ofNat 27 len ∧ SameRest s t

/-- The same for a pair rA:rA+1 without the program counter: the high half in rA, the low half in the next register; a half in
FLAGS is FLAGS before the flag update. -/
def WrotePair (s t : State) (rA : RegNo) (r : Pair) (z c o sg : FlagIs) : Prop :=
  let hi := r.extractLsb' 27 27
  let lo := r.extractLsb' 0 27
  (rA ≠ s.flagsReg → t.x rA = hi) ∧ (rA + 1 ≠ s.flagsReg → t.x (rA + 1) = lo) ∧
    (∀ q, q ≠ rA → q ≠ rA + 1 → q ≠ s.flagsReg → q ≠ s.pcReg → t.x q = s.x q) ∧
      FlagsAre s.settings.flagBits (if rA = s.flagsReg then hi else if rA + 1 = s.flagsReg then lo else s.flags) t.flags
        z c o sg ∧
        t.pc = s.pc + 3#27 ∧ SameRest s t

/-- A destination pair without the program counter. -/
def PairDest (s : State) (rA : RegNo) : Prop := rA ≠ s.pcReg ∧ rA + 1 ≠ s.pcReg

/-- The instruction, the operation `op` on `a` and `b`, completes with `r` in rA, Z and S from `r` and C and O by `FlagCO`,
when UF is 1. -/
def ResultWord (i : Instr) (s : State) (rA : RegNo) (uf : Bool) (op : FlagOp) (a b r : Word) : Prop :=
  let co := Config.flagCO op 27 a b r
  ∃ t, exec i s = .next t ∧
    WroteWord s t rA 3 r (ufVal uf (r == 0#27)) (ufCO s uf co.1) (ufCO s uf co.2) (ufVal uf r.msb)

/-- The same for a pair. -/
def ResultPair (i : Instr) (s : State) (rA : RegNo) (uf : Bool) (op : FlagOp) (a b r : Pair) : Prop :=
  let co := Config.flagCO op 54 a b r
  ∃ t, exec i s = .next t ∧
    WrotePair s t rA r (ufVal uf (r == 0#54)) (ufCO s uf co.1) (ufCO s uf co.2) (ufVal uf r.msb)

/-- The quotient or remainder `q` of the signed division of `a` by `b`, `ov` for the most negative value by -1
(`DivOverflow`). -/
def fits {n : Nat} (ov : BitVec n) (a b q : Int) : BitVec n :=
  if a = -2 ^ (n - 1) ∧ b = -1 then ov else BitVec.ofInt n q

/-- The result `r` of a shift of `a` by `k`, or what the function of `ShiftOver` gives for N or more. -/
def shiftIs {n : Nat} (s : State) (op : ShiftOp) (a : BitVec n) (k : Nat) (r : BitVec n) : BitVec n :=
  if s.settings.shiftOver = .function ∧ n ≤ k then Config.shiftOver op n a k else r

/-- A rotate of `a` by `k` gave `r`: `P` of it, or what the function of `ShiftOver` gives for more than N. -/
def RotateIs {n : Nat} (s : State) (op : ShiftOp) (a : BitVec n) (k : Nat) (r : BitVec n) (P : Prop) : Prop :=
  if s.settings.shiftOver = .function ∧ n < k then r = Config.shiftOver op n a k else P

/-- The instruction completes with the sum a + b + c in rA, and the flags of an add form when UF is 1. -/
def AddedWord (i : Instr) (s : State) (rA : RegNo) (uf : Bool) (a b : Word) (c : Bool) : Prop :=
  let sum := a.toNat + b.toNat + c.toNat
  let r := BitVec.ofNat 27 sum
  ∃ t, exec i s = .next t ∧
    WroteWord s t rA 3 r (ufVal uf (r == 0#27)) (ufVal uf (decide (2 ^ 27 ≤ sum)))
      (ufVal uf (a.msb == b.msb && r.msb != a.msb)) (ufVal uf r.msb)

/-- The same for a pair. -/
def AddedPair (i : Instr) (s : State) (rA : RegNo) (uf : Bool) (a b : Pair) (c : Bool) : Prop :=
  let sum := a.toNat + b.toNat + c.toNat
  let r := BitVec.ofNat 54 sum
  ∃ t, exec i s = .next t ∧
    WrotePair s t rA r (ufVal uf (r == 0#54)) (ufVal uf (decide (2 ^ 54 ≤ sum)))
      (ufVal uf (a.msb == b.msb && r.msb != a.msb)) (ufVal uf r.msb)

/-- The overflow flag of a difference `r` of `a` and `b`: the printed formula, or the standard one. -/
def overflowOf (p : SubOverflow) (a b r : Bool) : Bool :=
  match p with
  | .source => r != a
  | .standard => a != b && r != a

/-- The instruction completes with the difference a - b - c in rA, and the flags of a subtract form when UF is 1. -/
def SubtractedWord (i : Instr) (s : State) (rA : RegNo) (uf : Bool) (a b : Word) (c : Bool) : Prop :=
  let r := BitVec.ofInt 27 ((a.toNat : Int) - b.toNat - c.toNat)
  ∃ t, exec i s = .next t ∧
    WroteWord s t rA 3 r (ufVal uf (r == 0#27)) (ufVal uf (decide (a.toNat < b.toNat + c.toNat)))
      (ufVal uf (overflowOf s.settings.subOverflow a.msb b.msb r.msb)) (ufVal uf r.msb)

/-- The same for a pair. -/
def SubtractedPair (i : Instr) (s : State) (rA : RegNo) (uf : Bool) (a b : Pair) (c : Bool) : Prop :=
  let r := BitVec.ofInt 54 ((a.toNat : Int) - b.toNat - c.toNat)
  ∃ t, exec i s = .next t ∧
    WrotePair s t rA r (ufVal uf (r == 0#54)) (ufVal uf (decide (a.toNat < b.toNat + c.toNat)))
      (ufVal uf (overflowOf s.settings.subOverflow a.msb b.msb r.msb)) (ufVal uf r.msb)

/-- The instruction has no UF field and completes with `r` in rA; `z` and `sg` are the flags from the result. -/
def PolicyWord (i : Instr) (s : State) (rA : RegNo) (op : FlagOp) (a b r : Word) (z sg : Bool) : Prop :=
  let co := Config.flagCO op 27 a b r
  ∃ t, exec i s = .next t ∧
    WroteWord s t rA 3 r (policy s (.val z)) (policy s (coVal s co.1)) (policy s (coVal s co.2)) (policy s (.val sg))

/-- The same for a pair. -/
def PolicyPair (i : Instr) (s : State) (rA : RegNo) (op : FlagOp) (a b r : Pair) (z sg : Bool) : Prop :=
  let co := Config.flagCO op 54 a b r
  ∃ t, exec i s = .next t ∧
    WrotePair s t rA r (policy s (.val z)) (policy s (coVal s co.1)) (policy s (coVal s co.2)) (policy s (.val sg))

/-- A floating-point result in rA: Z and S by `FloatOps`, C and O by `FlagCO`, when UF is 1. -/
def FloatWord (i : Instr) (s : State) (rA : RegNo) (uf : Bool) (op : FlagOp) (a b r : Word) : Prop :=
  let co := Config.flagCO op 27 a b r
  ∃ t, exec i s = .next t ∧
    WroteWord s t rA 3 r (ufVal uf (Config.fzero 27 r)) (ufCO s uf co.1) (ufCO s uf co.2) (ufVal uf (Config.fltz 27 r))

/-- The same for a pair. -/
def FloatPair (i : Instr) (s : State) (rA : RegNo) (uf : Bool) (op : FlagOp) (a b r : Pair) : Prop :=
  let co := Config.flagCO op 54 a b r
  ∃ t, exec i s = .next t ∧
    WrotePair s t rA r (ufVal uf (Config.fzero 54 r)) (ufCO s uf co.1) (ufCO s uf co.2) (ufVal uf (Config.fltz 54 r))

/-- The instruction completes; it wrote only the status flags, all four, and moved on by `len` bytes. -/
def Compared (i : Instr) (s : State) (len : Nat) (z c o sg : Bool) : Prop :=
  ∃ t, exec i s = .next t ∧ zOf t = z ∧ cOf t = c ∧ oOf t = o ∧ sOf t = sg ∧
    (∀ j, 4 ≤ j → t.flags.getLsbD j = s.flags.getLsbD j) ∧
      (∀ q, q ≠ s.flagsReg → q ≠ s.pcReg → t.x q = s.x q) ∧ t.pc = s.pc + BitVec.ofNat 27 len ∧ SameRest s t

/-- The instruction completes and changes the program counter only. -/
def JumpedTo (i : Instr) (s : State) (target : Addr) : Prop :=
  ∃ t, exec i s = .next t ∧ t.pc = target ∧ SameRegisters s t ∧ SameRest s t

/-- The instruction completes; it wrote the return address, `len` bytes on, to RA, and changed only that and the program
counter. -/
def CalledTo (i : Instr) (s : State) (len : Nat) (target : Addr) : Prop :=
  ∃ t, exec i s = .next t ∧ t.pc = target ∧ t.x s.raReg = s.pc + BitVec.ofNat 27 len ∧
    (∀ q, q ≠ s.raReg → q ≠ s.pcReg → t.x q = s.x q) ∧ SameRest s t

/-- The instruction takes the exception: its whole effect is that trap entry. -/
def Raises (i : Instr) (s : State) (e : Exc) (len : Option Nat) : Prop := exec i s = .next (s.takeException e len)

/-! ## Conditions -/

/-- The predicate of a condition row, on four flags. -/
def TestHolds (t : FlagTest) (z c o sg : Bool) : Prop :=
  match t with
  | .always => True
  | .z => z = true
  | .c => c = true
  | .o => o = true
  | .s => sg = true
  | .not u => ¬ TestHolds u z c o sg
  | .and u v => TestHolds u z c o sg ∧ TestHolds v z c o sg
  | .or u v => TestHolds u z c o sg ∨ TestHolds v z c o sg
  | .xor u v => ¬ (TestHolds u z c o sg ↔ TestHolds v z c o sg)

/-- The Condition value has a row in the machine's table, and its predicate holds of the flags. -/
def Takes (s : State) (cond : Fin 16) : Prop :=
  ∃ t, s.settings.condTable[cond.val] = some t ∧ TestHolds t (zOf s) (cOf s) (oOf s) (sOf s)

/-- The Condition value has a row, and its predicate does not hold of the flags. -/
def Passes (s : State) (cond : Fin 16) : Prop :=
  ∃ t, s.settings.condTable[cond.val] = some t ∧ ¬ TestHolds t (zOf s) (cOf s) (oOf s) (sOf s)

/-! ## Memory operands -/

/-- The byte at an address, 0 where memory holds none (used only for bytes that a hypothesis says hold a value). -/
def byteOf (s : State) (a : Addr) : Nat := ((s.mem.byteAt a).getD 0#9).toNat

/-- The value that a load reads at an address: a byte; a Word, high byte first; a Tri, middle, high, low. -/
def elementAt (s : State) (z : Size) (a : Addr) : Word :=
  match z with
  | .single => BitVec.ofNat 27 (byteOf s a)
  | .word => BitVec.ofNat 27 (byteOf s a * 2 ^ 9 + byteOf s (a + 1))
  | .tri => BitVec.ofNat 27 (byteOf s a * 2 ^ 9 + byteOf s (a + 1) * 2 ^ 18 + byteOf s (a + 2))

/-- Byte `j` of the bytes a value is stored as. -/
def storedByte (z : Size) (v : Word) (j : Nat) : Byte :=
  match z, j with
  | .word, 0 => BitVec.ofNat 9 (v.toNat / 2 ^ 9)
  | .tri, 0 => BitVec.ofNat 9 (v.toNat / 2 ^ 9)
  | .tri, 1 => BitVec.ofNat 9 (v.toNat / 2 ^ 18)
  | _, _ => BitVec.ofNat 9 v.toNat

/-- The `n` bytes from an address can all be read. -/
def AllReadable (s : State) (a : Addr) (n : Nat) : Prop :=
  ∀ k < n, ∃ b, s.Readable .read (a + BitVec.ofNat 27 k) b

/-- The `n` bytes from an address can all be written. -/
def AllWritable (s : State) (a : Addr) (n : Nat) : Prop := ∀ k < n, s.Writable (a + BitVec.ofNat 27 k)

/-- How many bytes a load or store of count + 1 registers moves. -/
def moved (z : Size) (count : Fin 32) : Nat := (count.val + 1) * z.bytes

/-- The base of a load or store: rB, lowered by the bytes moved in mode 2. -/
def baseOf (s : State) (z : Size) (rB : RegNo) (count : Fin 32) (mode : Fin 4) : Word :=
  if mode = 2 then s.x rB - BitVec.ofNat 27 (moved z count) else s.x rB

/-- Register `q` after the loop of a load that starts at `loc`: register rA + k has element k, every other register is as
before. -/
def loadedReg (s : State) (z : Size) (rA : RegNo) (n : Nat) (loc : Addr) (q : RegNo) : Word :=
  if (q - rA).val < n then elementAt s z (loc + BitVec.ofNat 27 ((q - rA).val * z.bytes)) else s.x q

/-- A load completes: its registers, then rB as the mode says, FLAGS only as a register; the program counter discards its
value. -/
def Loads (i : Instr) (z : Size) (rA rB : RegNo) (count : Fin 32) (mode : Fin 4) (offset : BitVec 27) (s : State) : Prop :=
  let loc := s.moveLoc z rB count mode offset
  let r := loadedReg s z rA (count.val + 1) loc
  loc = baseOf s z rB count mode + offset ∧
  ∃ t, exec i s = .next t ∧
    (∀ q, q ≠ s.pcReg → t.x q =
      if q = rB ∧ mode = 1 then r q + BitVec.ofNat 27 (moved z count)
      else if q = rB ∧ mode = 2 then baseOf s z rB count mode else r q) ∧
    t.pc = s.pc + 6#27 ∧ SameRest s t

/-- A store completes: byte j of the value of register rA + k lies at the location + k * size + j, every byte outside the
stored range is as before, and rB is as the mode says. -/
def Stores (i : Instr) (z : Size) (rA rB : RegNo) (count : Fin 32) (mode : Fin 4) (offset : BitVec 27) (s : State) : Prop :=
  let loc := s.moveLoc z rB count mode offset
  loc = baseOf s z rB count mode + offset ∧
  ∃ t, exec i s = .next t ∧
    (∀ k : Fin 32, k.val ≤ count.val → ∀ j < z.bytes,
      t.mem.byteAt (loc + BitVec.ofNat 27 (k.val * z.bytes + j)) = some (storedByte z (s.x (rA + k)) j)) ∧
    (∀ a : Addr, moved z count ≤ (a - loc).toNat → t.mem.byteAt a = s.mem.byteAt a) ∧
    (∀ a : Addr, t.stored.has a = (decide ((a - loc).toNat < moved z count) || s.stored.has a)) ∧
    (∀ q, q ≠ s.pcReg → t.x q =
      if q = rB ∧ mode = 1 then s.x rB + BitVec.ofNat 27 (moved z count)
      else if q = rB ∧ mode = 2 then baseOf s z rB count mode else s.x q) ∧
    t.pc = s.pc + 6#27 ∧ SameProtection s t ∧ SameMachine s t

/-- The three loads by size. -/
def loadOf (z : Size) (rA rB : RegNo) (count : Fin 32) (mode : Fin 4) (offset : BitVec 27) : Instr :=
  match z with
  | .single => .lds rA rB count mode offset
  | .word => .ldw rA rB count mode offset
  | .tri => .ldt rA rB count mode offset

/-- The three stores by size. -/
def storeOf (z : Size) (rA rB : RegNo) (count : Fin 32) (mode : Fin 4) (offset : BitVec 27) : Instr :=
  match z with
  | .single => .sts rA rB count mode offset
  | .word => .stw rA rB count mode offset
  | .tri => .stt rA rB count mode offset

/-- Byte `q` of a copy can be read, though perhaps only because the copy wrote it before. -/
def CopyReads (s : State) (dst src : Addr) (q : Nat) : Prop :=
  let a := src + BitVec.ofNat 27 q
  s.plain a = true ∧ s.allows .read a = true ∧ (s.mem.byteAt a ≠ none ∨ (a - dst).toNat < q)

/-- The first `n` bytes of a copy can be read and written. -/
def CopyRuns (s : State) (dst src : Addr) (n : Nat) : Prop :=
  ∀ q < n, CopyReads s dst src q ∧ s.Writable (dst + BitVec.ofNat 27 q)

/-- The state after the first `n` bytes of a copy: the byte at dst + q is what src + q held, or, where the copy itself wrote
src + q before, what it wrote there; every other byte, every register and all else are as before. -/
def Copied (s t : State) (dst src : Addr) (n : Nat) : Prop :=
  (∀ q < n, t.mem.byteAt (dst + BitVec.ofNat 27 q) =
    if (src + BitVec.ofNat 27 q - dst).toNat < q then t.mem.byteAt (src + BitVec.ofNat 27 q)
    else s.mem.byteAt (src + BitVec.ofNat 27 q)) ∧
  (∀ a : Addr, n ≤ (a - dst).toNat → t.mem.byteAt a = s.mem.byteAt a) ∧
  (∀ a : Addr, t.stored.has a = (decide ((a - dst).toNat < n) || s.stored.has a)) ∧
  SameRegisters s t ∧ SameProtection s t ∧ SameMachine s t

/-! ## Trap frames -/

/-- The numbers of the asynchronous interrupts (60_exceptions.md R500, R503). -/
def asyncNumbers : List IntNo := [0, 1, 2, 3, 7, 8]

/-- Interrupt `n` is enabled: bit 4 + n of FLAGS (60_exceptions.md R502). -/
def Enabled (s : State) (n : IntNo) : Prop := s.flags.getLsbD (4 + n.val) = true

/-- The address of the handler Tri of interrupt `n`: the pointer table holds one Tri for each number (60_exceptions.md
R505). -/
def handlerAddr (s : State) (n : IntNo) : Addr := s.settings.vectorBase + BitVec.ofNat 27 (3 * n.val)

/-- Tri `k` of the frame that saves state `s` with ST at `st` and the return address `ret`: R0 to R31, then FLAGS. -/
def frameTri (s : State) (st ret : Word) (k : Nat) : Word :=
  if k = s.stReg.val then st else if k = s.pcReg.val then ret else if k = 32 then s.flags else s.x (Fin.ofNat 32 k)

/-- The interrupt can be delivered: enabled, its handler Tri readable and not 0, the frame writable. -/
def Deliverable (s : State) (n : IntNo) : Prop :=
  Enabled s n ∧ AllReadable s (handlerAddr s n) 3 ∧ elementAt s .tri (handlerAddr s n) ≠ 0#27 ∧
    AllWritable s s.entryBase 99

/-- The state after the events of a boundary: the asynchronous numbers of the next mask of external events are pending too. -/
def afterEvents (s : State) : State :=
  { s with pending := s.pending ||| (s.arrivals.headD 0#9 &&& 0b110001111#9), arrivals := s.arrivals.tail }

/-- An asynchronous interrupt that is pending and enabled can be taken. -/
def CanTake (s : State) (n : IntNo) : Prop := n ∈ asyncNumbers ∧ s.pending.getLsbD n.val = true ∧ Enabled s n

/-- Interrupt `n` is what the boundary takes: it can be taken, and none before it in `IntPriority` can. -/
def TakenAt (s : State) (n : IntNo) : Prop :=
  CanTake s n ∧ ∃ before after, s.settings.intPriority.order = before ++ n :: after ∧ ∀ m ∈ before, ¬ CanTake s m

/-- No interrupt can be taken at the boundary. -/
def NoneTaken (s : State) : Prop := ∀ m : IntNo, ¬ CanTake s m

/-- The bytes from an address, each readable with fetch permission, are the list. -/
def Fetchable (s : State) (a : Addr) (l : List Byte) : Prop :=
  ∀ k (h : k < l.length), s.Readable .fetch (a + BitVec.ofNat 27 k) l[k]

/-- The request of SMP or RMP is in the clean domain: page-aligned, at least one page, inside the address space. -/
def CleanRequest (a n : Word) : Prop := a.toNat % 1024 = 0 ∧ 1 ≤ n.toNat ∧ a.toNat / 1024 + n.toNat ≤ 2 ^ 17

end Sys2Proof.Machine.Claim

open Sys2Proof Sys2Proof.Machine Sys2Proof.Machine.Claim

/-! ## The machine as a whole -/

/-- The state after reset under a launch configuration, and under the defaults: FLAGS 0, pc 0, nothing pending, Running,
memory empty, every parameter at the default of 00_scope.md R7 (10_state.md R41, 70_reset_and_hazards.md R600, R603). That
R0 to R29 are 0 and that no page allows an access are the model's choices (log 3, log 4). The form of the reset state is
that of log 56. The tables `CondTable`, `Perm` and `MemMap` are in the statements ConditionsAfterCompare and
ProtectionAndMap. -/
def Obligations.ResetState : Prop :=
  (∀ c : Launch,
    let s := State.launch c
    s.settings = c.settings ∧ s.flags = 0#27 ∧ s.pc = c.resetPC ∧
      (∀ q, q ≠ s.flagsReg → q ≠ s.pcReg → s.x q = c.registers[q.val]) ∧ s.mem = c.mem ∧ s.stored = [] ∧ s.prot = c.prot ∧
        s.pending = 0#9 ∧ s.runState = .running ∧ s.arrivals = c.arrivals) ∧
    (∀ (v : Prot) (page : Nat), page < 2 ^ 17 → (ProtTable.uniform v).ofPage page = v) ∧
    (let s := State.reset
     (∀ q : RegNo, s.x q = 0#27) ∧ s.pending = 0#9 ∧ s.runState = .running ∧ (∀ a : Addr, s.mem.byteAt a = none) ∧
      (∀ p, s.prot.ofPage p = 0#2) ∧ s.arrivals = [] ∧ s.settings = .default) ∧
    (let p := Settings.default
     (p.noUFFlagPolicy = .always ∧ p.subOverflow = .source ∧ p.excReturnPC = .faulting ∧ p.stackDirectionFlag = false) ∧
      (p.specialRegs.st = 28 ∧ p.specialRegs.ra = 29 ∧ p.specialRegs.fl = 30 ∧ p.specialRegs.pc = 31) ∧
      (p.flagBits.z = 0 ∧ p.flagBits.c = 1 ∧ p.flagBits.o = 2 ∧ p.flagBits.s = 3) ∧
      (p.flagCO = .draw ∧ p.shiftOver = .mathematical ∧ p.trapEntryMask = .identity ∧ p.fetchCoherent = true) ∧
      (p.divOverflow.quotient27 = 0x4000000#27 ∧ p.divOverflow.remainder27 = 0#27 ∧
        p.divOverflow.quotient54 = 0x20000000000000#54 ∧ p.divOverflow.remainder54 = 0#54) ∧
      (p.vectorBase = 0x7FFFF00#27 ∧ p.intPriority.order = [0, 1, 2, 3, 4, 5, 6, 7, 8]) ∧
      (∀ n i : Fin 13, (p.rmpPack[n.val][i.val]).1.val = 2 * i.val + 1 ∧ (p.rmpPack[n.val][i.val]).2.val = 2 * i.val) ∧
      (∀ g0 g1 g2 g3 g4 g5 : Byte, toMemory p.fetchOrder [g0, g1] = [g1, g0] ∧
        toMemory p.fetchOrder [g0, g1, g2] = [g1, g0, g2] ∧ toMemory p.fetchOrder [g0, g1, g2, g3] = [g1, g0, g2, g3] ∧
          toMemory p.fetchOrder [g0, g1, g2, g3, g4, g5] = [g1, g0, g2, g4, g3, g5]))

/-- The invariant holds after reset, and after a launch with a sound configuration. -/
def Obligations.ResetHasInvariant : Prop := State.reset.Inv ∧ ∀ c : Launch, c.Sound → (State.launch c).Inv

/-- Every step keeps the invariant, from every state that has it: memory, the protection table and the set of stored addresses
keep their canonical forms, stores reach plain memory only, and no synchronous number becomes pending. -/
def Obligations.StepKeepsInvariant : Prop := ∀ s t : State, s.Inv → step s = .next t → t.Inv

/-- No step changes the settings: `StackDirectionFlag` and the other parameters are constant during a run (10_state.md R40
(c)). That the parameters are fields of State is the model's form (log 56). -/
def Obligations.StepKeepsSettings : Prop := ∀ s t : State, step s = .next t → t.settings = s.settings

/-- Decoding the bytes of a well-formed instruction gives it back and leaves the bytes after it, in every `FetchOrder` and
under every `CondTable`. The order of an
instruction's bytes in memory is the spec's choice from general knowledge (log 33). -/
def Obligations.DecodeAfterEncode : Prop :=
  ∀ (p : Settings) (i : Instr) (rest : List Byte), WellFormed p.condTable i = true →
    decode p (encode p.fetchOrder i ++ rest) = .ok (i, rest)

/-- Bytes decode to an instruction only if they begin with its encoding, and the instruction is well-formed: every other bit
pattern is rejected (30_encoding.md R130). The order of the bytes is that of log 33, the rejection of every other pattern
that of log 35. -/
def Obligations.DecodeOnlyEncodings : Prop :=
  ∀ (p : Settings) (bytes rest : List Byte) (i : Instr), decode p bytes = .ok (i, rest) →
    WellFormed p.condTable i = true ∧ bytes = encode p.fetchOrder i ++ rest

/-- A few words of the spec's worked examples decode to the instructions they stand for (a sanity statement). -/
def Obligations.DecodeSampleWords : Prop :=
  let p := Settings.default
  decode p [0x102, 0x140] = .ok (.ei 1, []) ∧ decode p [0x044, 0x004, 0x061] = .ok (.adf 1 2 3 true, []) ∧
    decode p [0x000, 0x1C4, 0x008, 0x000] = .ok (.bra 0x1000#27, []) ∧
      decode p [0x054, 0x150, 0x020, 0x000, 0x000, 0x020] = .ok (.lds 1 10 1 0 4#27, [])

/-- A step of a Running core runs the instruction at the program counter: when no interrupt is taken at the boundary and the
fetchable bytes there decode to `i`, the step is `exec i` of the state after the boundary's events (60_exceptions.md R504,
R506). The byte order of an instruction (log 33), the fetch of memory as it is (log 34) and the one step per instruction
(log 45) are inferences of the spec or from outside it. -/
def Obligations.StepRunsDecodedInstruction : Prop :=
  ∀ (s : State) (bytes : List Byte) (i : Instr),
    s.runState = .running → NoneTaken (afterEvents s) → Fetchable (afterEvents s) s.pc bytes →
      decode s.settings bytes = .ok (i, []) → step s = exec i (afterEvents s)

/-- What a fetch raises or stops on: bytes that select a length but match no instruction, and first bytes that select no
length, raise InvalidInstruction; a byte that lacks fetch permission raises MemoryException, with the length known once the
first two bytes are read; a byte outside plain memory and one stored since the program was loaded (with `FetchCoherent =
false`) are refused, one that nothing has written is a model fault (30_encoding.md R102, R130, 60_exceptions.md R506 to
R508, 20_memory.md R68, R79). The order of the checks (log 46), the page of each byte (log 51), the return address before
the length is known (log 24), the regions (log 16, log 17), the byte without a value (log 5) and the coherence of fetches
(log 34) are the model's or the spec's own reading. -/
def Obligations.FetchExceptions : Prop :=
  ∀ (s : State) (bytes : List Byte),
    s.runState = .running → NoneTaken (afterEvents s) → Fetchable (afterEvents s) s.pc bytes →
    let raised (e : Exc) (len : Option Nat) : Prop := step s = .next ((afterEvents s).takeException e len)
    let next := s.pc + BitVec.ofNat 27 bytes.length
    let len := lengthOf (wordOfBytes s.settings.fetchOrder (bytes.take 2))
    let short (n : Nat) : Prop := bytes.length < n ∧ (n = 2 ∨ 2 ≤ bytes.length ∧ len = some n)
    (∀ e, 2 ≤ bytes.length → len = some bytes.length → decode s.settings bytes = .error e →
      raised .invalidInstruction (some bytes.length)) ∧
    (bytes.length = 2 → len = none → raised .invalidInstruction (some 2)) ∧
    (∀ n, short n → s.plain next = true → s.allows .fetch next = false →
      raised (.memoryException .fetch next) (if bytes.length < 2 then none else some n)) ∧
    (∀ n, short n → s.plain next = false → step s = .refused (s.regionRefusal next)) ∧
    (∀ n, short n → s.plain next = true → s.allows .fetch next = true → s.stale .fetch next = true →
      step s = .refused (.staleFetch next)) ∧
    (∀ n, short n → s.plain next = true → s.allows .fetch next = true → s.stale .fetch next = false →
      s.mem.byteAt next = none → step s = .fault (.unwrittenByte next))

/-- At a boundary the first pending and enabled interrupt in `IntPriority` is taken, in Running and in Waiting, with the pc as
return address; by default that is the lowest number (60_exceptions.md R504, R513, log 32). The asynchronous numbers are 0 to
3, 7 and 8 (R500, R503), the enable of number n is bit 4 + n of FLAGS (R502). The events of a boundary are an input list of
the model (log 21). -/
def Obligations.BoundaryTakesInterrupt : Prop :=
  ∀ (s : State) (n : IntNo), s.runState = .running ∨ s.runState = .waiting →
    let a := afterEvents s
    (TakenAt a n → step s = .next (a.trapEntry n s.pc)) ∧
      (s.settings.intPriority = .default → CanTake a n → (∀ m : IntNo, m < n → ¬ CanTake a m) →
        step s = .next (a.trapEntry n s.pc))

/-- A Waiting core goes on waiting while no interrupt is taken; a Halted core changes nothing; a Faulted core is stuck
(60_exceptions.md R504, R512). What a step of a resting core does is log 52, the halt that nothing ends log 31. -/
def Obligations.RestingStates : Prop :=
  (∀ s : State, s.runState = .waiting → NoneTaken (afterEvents s) → step s = .next (afterEvents s)) ∧
    (∀ s : State, s.runState = .halted → step s = .next s) ∧
      (∀ s : State, s.runState = .faulted → step s = .fault .coreFaulted)

/-- Trap entry that can be delivered saves R0 to R31 and FLAGS in the 99-byte frame at the entry base, moves ST, and continues
at the handler, whose Tri is at `VectorBase` + 3n; FLAGS is as it was or what `TrapEntryMask` makes of it; an asynchronous
number is no longer pending; nothing else changes (60_exceptions.md R505, R510). The frame (log 38), the place of the handler
Tri (log 18), the FLAGS left unchanged by default (log 23) and the stack direction setting (log 25) are the model's choices or
the spec's inferences. -/
def Obligations.TrapEntryDelivers : Prop :=
  ∀ (s : State) (n : IntNo) (ret : Addr), Deliverable s n →
    let t := s.trapEntry n ret
    let up := s.settings.stackDirectionFlag
    let st := if up then s.x s.stReg else s.x s.stReg - 0x63#27
    s.entryBase = st ∧ t.pc = elementAt s .tri (handlerAddr s n) ∧ t.runState = .running ∧
      t.flags = (match s.settings.trapEntryMask with | .identity => s.flags | .function => Config.trapEntryMask s.flags) ∧
      t.x s.stReg = (if up then s.x s.stReg + 0x63#27 else s.x s.stReg - 0x63#27) ∧
      (∀ q, q ≠ s.stReg → q ≠ s.pcReg → q ≠ s.flagsReg → t.x q = s.x q) ∧
      (∀ k < 33, ∀ j < 3, t.mem.byteAt (s.entryBase + BitVec.ofNat 27 (3 * k + j)) =
        some (storedByte .tri (frameTri s st ret k) j)) ∧
      (∀ a : Addr, 99 ≤ (a - s.entryBase).toNat → t.mem.byteAt a = s.mem.byteAt a) ∧
      (∀ a : Addr, t.stored.has a = (decide ((a - s.entryBase).toNat < 99) || s.stored.has a)) ∧
      (∀ m : IntNo, t.pending.getLsbD m.val = (s.pending.getLsbD m.val && !decide (m = n ∧ n ∈ asyncNumbers))) ∧
      SameProtection s t ∧ t.settings = s.settings ∧ t.arrivals = s.arrivals

/-- A trap that cannot be delivered makes the core Faulted: the number is disabled, or the handler is 0, or a byte of
the handler Tri cannot be read, or a byte of the frame cannot be written (60_exceptions.md R512). That every other piece of
state stays as it was is the model's choice (log 19). -/
def Obligations.UndeliverableTrapFaults : Prop :=
  ∀ (s : State) (n : IntNo) (ret : Addr), ¬ Deliverable s n → s.trapEntry n ret = { s with runState := .faulted }

/-- IR undoes a delivered trap entry: run in the state after the entry, with a frame whose pages allow reading (by default
every page that allows writing does), it restores every register and FLAGS and continues at the return address, and it
writes no memory (60_exceptions.md R510, 49_system.md R404). It rests on the frame of log 38, on log 39, on the protection
values of log 15 and on the setting of log 25. -/
def Obligations.InterruptReturnUndoesTrapEntry : Prop :=
  ∀ (s : State) (n : IntNo) (ret : Addr), Deliverable s n →
    (s.settings.perm = .default ∨ ∀ k < 99, s.allows .read (s.entryBase + BitVec.ofNat 27 k) = true) →
    ∃ t, exec .ir (s.trapEntry n ret) = .next t ∧ t.pc = ret ∧ SameRegisters s t ∧
      SameMemory (s.trapEntry n ret) t ∧ SameProtection s t ∧ t.runState = .running ∧ t.settings = s.settings

/-- Which address a synchronous exception saves: that of the instruction, or of the next one under `ExcReturnPC = next`; the
exception number is 4, 5 or 6 (60_exceptions.md R500, R511). The numbers are those of log 50, the setting is log 24. -/
def Obligations.ExceptionSavesReturnAddress : Prop :=
  ∀ (s : State) (e : Exc) (len : Nat),
    s.takeException e (some len) =
      s.trapEntry (match e with | .invalidInstruction => 4 | .divideByZero => 5 | .memoryException _ _ => 6)
        (match s.settings.excReturnPC with | .faulting => s.pc | .next => s.pc + BitVec.ofNat 27 len)

/-! ## Destinations that are refused -/

/-- An instruction whose destination is the program counter, or whose destination pair contains it, is refused (10_state.md
R25 (d)); a zero divisor is raised first, so the divisions are named with a divisor that is not 0. The refusal is log 47. -/
def Obligations.ProgramCounterDestinationRefused : Prop :=
  ∀ (rB rC : RegNo) (imm : BitVec 7) (imm17 : BitVec 17) (uf : Bool) (s : State),
    let p := s.pcReg
    let no (i : Instr) : Prop := exec i s = .refused .writeToR31
    (no (.ad p rB rC uf) ∧ no (.adi p rB imm uf) ∧ no (.adc p rB rC uf) ∧ no (.adci p rB imm uf) ∧
      no (.sb p rB rC uf) ∧ no (.sbi p rB imm uf) ∧ no (.sbc p rB rC uf) ∧ no (.sbci p rB imm uf) ∧
      no (.mu p rB rC uf) ∧ no (.mui p rB imm uf) ∧ no (.mus p rB rC uf) ∧ no (.muis p rB imm uf) ∧
      no (.an p rB rC uf) ∧ no (.ani p rB imm uf) ∧ no (.or p rB rC uf) ∧ no (.ori p rB imm uf) ∧
      no (.xr p rB rC uf) ∧ no (.xri p rB imm uf) ∧ no (.bf p rB uf) ∧ no (.ng p rB uf) ∧ no (.nt p rB uf) ∧
      no (.sl p rB rC uf) ∧ no (.sli p rB imm uf) ∧ no (.sr p rB rC uf) ∧ no (.sri p rB imm uf) ∧
      no (.sa p rB rC uf) ∧ no (.sai p rB imm uf) ∧ no (.rl p rB rC uf) ∧ no (.rli p rB imm uf) ∧
      no (.rr p rB rC uf) ∧ no (.rri p rB imm uf)) ∧
    (no (.mh p imm17) ∧ no (.ml p imm17) ∧ no (.ms p imm17) ∧ no (.ses p rB) ∧ no (.sew p rB) ∧ no (.zes p rB) ∧
      no (.zew p rB) ∧ no (.rnd p uf) ∧ no (.adf p rB rC uf) ∧ no (.sbf p rB rC uf) ∧ no (.muf p rB rC uf) ∧
      no (.ngf p rB uf) ∧ no (.itf p rB) ∧ no (.fti p rB) ∧ no (.rf p)) ∧
    (∀ rA : RegNo, rA = p ∨ rA + 1 = p →
      no (.adm rA rB rC uf) ∧ no (.adim rA rB imm uf) ∧ no (.adcm rA rB rC uf) ∧ no (.adcim rA rB imm uf) ∧
      no (.sbm rA rB rC uf) ∧ no (.sbim rA rB imm uf) ∧ no (.sbcm rA rB rC uf) ∧ no (.sbcim rA rB imm uf) ∧
      no (.mum rA rB rC uf) ∧ no (.muim rA rB imm uf) ∧ no (.musm rA rB rC uf) ∧ no (.muism rA rB imm uf) ∧
      no (.anm rA rB rC uf) ∧ no (.orm rA rB rC uf) ∧ no (.xrm rA rB rC uf) ∧ no (.bfm rA rB uf) ∧ no (.ngm rA rB uf) ∧
      no (.ntm rA rB uf) ∧ no (.slm rA rB rC uf) ∧ no (.slim rA rB imm uf) ∧ no (.srm rA rB rC uf) ∧
      no (.srim rA rB imm uf) ∧ no (.sam rA rB rC uf) ∧ no (.saim rA rB imm uf) ∧ no (.rlm rA rB rC uf) ∧
      no (.rlim rA rB imm uf) ∧ no (.rrm rA rB rC uf) ∧ no (.rrim rA rB imm uf) ∧ no (.rndm rA uf) ∧
      no (.adfm rA rB rC uf) ∧ no (.sbfm rA rB rC uf) ∧ no (.mufm rA rB rC uf) ∧ no (.ngfm rA rB uf) ∧
      no (.itfm rA rB) ∧ no (.ftim rA rB) ∧
      (s.xx rC ≠ 0#54 → no (.dvm rA rB rC uf) ∧ no (.dvsm rA rB rC uf) ∧ no (.mdm rA rB rC uf) ∧ no (.mdsm rA rB rC uf)) ∧
      (imm ≠ 0#7 → no (.dvim rA rB imm uf) ∧ no (.dvism rA rB imm uf) ∧ no (.mdim rA rB imm uf) ∧ no (.mdism rA rB imm uf)) ∧
      (if Config.fdivfault 54 (s.xx rB) (s.xx rC) then
        Raises (.dvfm rA rB rC uf) s .divideByZero (some 3) ∧ Raises (.mdfm rA rB rC uf) s .divideByZero (some 3)
      else no (.dvfm rA rB rC uf) ∧ no (.mdfm rA rB rC uf))) ∧
    (s.x rC ≠ 0#27 → no (.dv p rB rC uf) ∧ no (.dvs p rB rC uf) ∧ no (.md p rB rC uf) ∧ no (.mds p rB rC uf)) ∧
    (imm ≠ 0#7 → no (.dvi p rB imm uf) ∧ no (.dvis p rB imm uf) ∧ no (.mdi p rB imm uf) ∧ no (.mdis p rB imm uf)) ∧
    (if Config.fdivfault 27 (s.x rB) (s.x rC) then
      Raises (.dvf p rB rC uf) s .divideByZero (some 3) ∧ Raises (.mdf p rB rC uf) s .divideByZero (some 3)
    else no (.dvf p rB rC uf) ∧ no (.mdf p rB rC uf))

/-! ## Add and subtract -/

/-- AD, ADI, ADC, ADCI: result, flags and frame, for every destination but the program counter. Rests on log 7, log 8, log
26, log 41 and log 43. -/
def Obligations.AddWords : Prop :=
  ∀ (rA rB rC : RegNo) (imm : BitVec 7) (uf : Bool) (s : State), rA ≠ s.pcReg →
    AddedWord (.ad rA rB rC uf) s rA uf (s.x rB) (s.x rC) false ∧
    AddedWord (.adi rA rB imm uf) s rA uf (s.x rB) (BitVec.ofNat 27 imm.toNat) false ∧
    AddedWord (.adc rA rB rC uf) s rA uf (s.x rB) (s.x rC) (cOf s) ∧
    AddedWord (.adci rA rB imm uf) s rA uf (s.x rB) (BitVec.ofNat 27 imm.toNat) (cOf s)

/-- ADM, ADIM, ADCM, ADCIM: result, flags and frame, for every destination pair without the program counter. Rests on log 7,
log 8, log 10, log 26, log 41 and log 43. -/
def Obligations.AddPairs : Prop :=
  ∀ (rA rB rC : RegNo) (imm : BitVec 7) (uf : Bool) (s : State), PairDest s rA →
    AddedPair (.adm rA rB rC uf) s rA uf (s.xx rB) (s.xx rC) false ∧
    AddedPair (.adim rA rB imm uf) s rA uf (s.xx rB) (BitVec.ofNat 54 imm.toNat) false ∧
    AddedPair (.adcm rA rB rC uf) s rA uf (s.xx rB) (s.xx rC) (cOf s) ∧
    AddedPair (.adcim rA rB imm uf) s rA uf (s.xx rB) (BitVec.ofNat 54 imm.toNat) (cOf s)

/-- SB, SBI, SBC, SBCI: result, flags and frame. The overflow flag follows the setting of log 13; rests on log 7, log 8, log
26 and log 41. -/
def Obligations.SubtractWords : Prop :=
  ∀ (rA rB rC : RegNo) (imm : BitVec 7) (uf : Bool) (s : State), rA ≠ s.pcReg →
    SubtractedWord (.sb rA rB rC uf) s rA uf (s.x rB) (s.x rC) false ∧
    SubtractedWord (.sbi rA rB imm uf) s rA uf (s.x rB) (BitVec.ofNat 27 imm.toNat) false ∧
    SubtractedWord (.sbc rA rB rC uf) s rA uf (s.x rB) (s.x rC) (cOf s) ∧
    SubtractedWord (.sbci rA rB imm uf) s rA uf (s.x rB) (BitVec.ofNat 27 imm.toNat) (cOf s)

/-- SBM, SBIM, SBCM, SBCIM: result, flags and frame. The overflow flag follows the setting of log 13; rests on log 7, log 8,
log 10, log 26 and log 41. -/
def Obligations.SubtractPairs : Prop :=
  ∀ (rA rB rC : RegNo) (imm : BitVec 7) (uf : Bool) (s : State), PairDest s rA →
    SubtractedPair (.sbm rA rB rC uf) s rA uf (s.xx rB) (s.xx rC) false ∧
    SubtractedPair (.sbim rA rB imm uf) s rA uf (s.xx rB) (BitVec.ofNat 54 imm.toNat) false ∧
    SubtractedPair (.sbcm rA rB rC uf) s rA uf (s.xx rB) (s.xx rC) (cOf s) ∧
    SubtractedPair (.sbcim rA rB imm uf) s rA uf (s.xx rB) (BitVec.ofNat 54 imm.toNat) (cOf s)

/-! ## Multiply, divide, modulus -/

/-- MU, MUI, MUS, MUIS: the low 27 bits of the exact product. The width of the product is log 54, the immediates log 41, the
open flags C and O log 9. -/
def Obligations.MultiplyWords : Prop :=
  ∀ (rA rB rC : RegNo) (imm : BitVec 7) (uf : Bool) (s : State), rA ≠ s.pcReg →
    ResultWord (.mu rA rB rC uf) s rA uf .mul (s.x rB) (s.x rC) (BitVec.ofNat 27 ((s.x rB).toNat * (s.x rC).toNat)) ∧
    ResultWord (.mui rA rB imm uf) s rA uf .mul (s.x rB) (BitVec.ofNat 27 imm.toNat)
      (BitVec.ofNat 27 ((s.x rB).toNat * imm.toNat)) ∧
    ResultWord (.mus rA rB rC uf) s rA uf .mulSigned (s.x rB) (s.x rC) (BitVec.ofInt 27 ((s.x rB).toInt * (s.x rC).toInt)) ∧
    ResultWord (.muis rA rB imm uf) s rA uf .mulSigned (s.x rB) (BitVec.ofInt 27 imm.toInt)
      (BitVec.ofInt 27 ((s.x rB).toInt * imm.toInt))

/-- MUM, MUIM, MUSM, MUISM: the low 54 bits of the exact product. The width of the product is log 54, the immediates log 41,
the open flags log 9, the pairs log 10. -/
def Obligations.MultiplyPairs : Prop :=
  ∀ (rA rB rC : RegNo) (imm : BitVec 7) (uf : Bool) (s : State), PairDest s rA →
    ResultPair (.mum rA rB rC uf) s rA uf .mul (s.xx rB) (s.xx rC) (BitVec.ofNat 54 ((s.xx rB).toNat * (s.xx rC).toNat)) ∧
    ResultPair (.muim rA rB imm uf) s rA uf .mul (s.xx rB) (BitVec.ofNat 54 imm.toNat)
      (BitVec.ofNat 54 ((s.xx rB).toNat * imm.toNat)) ∧
    ResultPair (.musm rA rB rC uf) s rA uf .mulSigned (s.xx rB) (s.xx rC)
      (BitVec.ofInt 54 ((s.xx rB).toInt * (s.xx rC).toInt)) ∧
    ResultPair (.muism rA rB imm uf) s rA uf .mulSigned (s.xx rB) (BitVec.ofInt 54 imm.toInt)
      (BitVec.ofInt 54 ((s.xx rB).toInt * imm.toInt))

/-- DV, DVI, MD, MDI with a divisor that is not 0: the floor of the quotient, and the remainder. The open flags C and O are
log 9, the immediates log 41. -/
def Obligations.DivideWordsUnsigned : Prop :=
  ∀ (rA rB rC : RegNo) (imm : BitVec 7) (uf : Bool) (s : State), rA ≠ s.pcReg → s.x rC ≠ 0#27 → imm ≠ 0#7 →
    ResultWord (.dv rA rB rC uf) s rA uf .div (s.x rB) (s.x rC) (BitVec.ofNat 27 ((s.x rB).toNat / (s.x rC).toNat)) ∧
    ResultWord (.dvi rA rB imm uf) s rA uf .div (s.x rB) (BitVec.ofNat 27 imm.toNat)
      (BitVec.ofNat 27 ((s.x rB).toNat / imm.toNat)) ∧
    ResultWord (.md rA rB rC uf) s rA uf .mod (s.x rB) (s.x rC) (BitVec.ofNat 27 ((s.x rB).toNat % (s.x rC).toNat)) ∧
    ResultWord (.mdi rA rB imm uf) s rA uf .mod (s.x rB) (BitVec.ofNat 27 imm.toNat)
      (BitVec.ofNat 27 ((s.x rB).toNat % imm.toNat))

/-- DVM, DVIM, MDM, MDIM with a divisor that is not 0. The open flags are log 9, the immediates log 41, the pairs log 10. -/
def Obligations.DividePairsUnsigned : Prop :=
  ∀ (rA rB rC : RegNo) (imm : BitVec 7) (uf : Bool) (s : State), PairDest s rA → s.xx rC ≠ 0#54 →
    imm ≠ 0#7 →
    ResultPair (.dvm rA rB rC uf) s rA uf .div (s.xx rB) (s.xx rC) (BitVec.ofNat 54 ((s.xx rB).toNat / (s.xx rC).toNat)) ∧
    ResultPair (.dvim rA rB imm uf) s rA uf .div (s.xx rB) (BitVec.ofNat 54 imm.toNat)
      (BitVec.ofNat 54 ((s.xx rB).toNat / imm.toNat)) ∧
    ResultPair (.mdm rA rB rC uf) s rA uf .mod (s.xx rB) (s.xx rC) (BitVec.ofNat 54 ((s.xx rB).toNat % (s.xx rC).toNat)) ∧
    ResultPair (.mdim rA rB imm uf) s rA uf .mod (s.xx rB) (BitVec.ofNat 54 imm.toNat)
      (BitVec.ofNat 54 ((s.xx rB).toNat % imm.toNat))

/-- DVS, DVIS, MDS, MDIS with a divisor that is not 0: rounded toward zero, the remainder with the sign of the dividend; the
one quotient that does not fit is what `DivOverflow` says, by default the wrapped one. The rounding and the wrap are log 28,
the immediates log 41, the open flags log 9. -/
def Obligations.DivideWordsSigned : Prop :=
  ∀ (rA rB rC : RegNo) (imm : BitVec 7) (uf : Bool) (s : State), rA ≠ s.pcReg → s.x rC ≠ 0#27 → imm ≠ 0#7 →
    ResultWord (.dvs rA rB rC uf) s rA uf .divSigned (s.x rB) (s.x rC)
      (fits s.settings.divOverflow.quotient27 (s.x rB).toInt (s.x rC).toInt (Int.tdiv (s.x rB).toInt (s.x rC).toInt)) ∧
    ResultWord (.dvis rA rB imm uf) s rA uf .divSigned (s.x rB) (BitVec.ofInt 27 imm.toInt)
      (fits s.settings.divOverflow.quotient27 (s.x rB).toInt imm.toInt (Int.tdiv (s.x rB).toInt imm.toInt)) ∧
    ResultWord (.mds rA rB rC uf) s rA uf .modSigned (s.x rB) (s.x rC)
      (fits s.settings.divOverflow.remainder27 (s.x rB).toInt (s.x rC).toInt (Int.tmod (s.x rB).toInt (s.x rC).toInt)) ∧
    ResultWord (.mdis rA rB imm uf) s rA uf .modSigned (s.x rB) (BitVec.ofInt 27 imm.toInt)
      (fits s.settings.divOverflow.remainder27 (s.x rB).toInt imm.toInt (Int.tmod (s.x rB).toInt imm.toInt))

/-- DVSM, DVISM, MDSM, MDISM with a divisor that is not 0; the one quotient that does not fit is what `DivOverflow` says. The
rounding and the wrap are log 28, the immediates log 41, the
open flags log 9. -/
def Obligations.DividePairsSigned : Prop :=
  ∀ (rA rB rC : RegNo) (imm : BitVec 7) (uf : Bool) (s : State), PairDest s rA → s.xx rC ≠ 0#54 →
    imm ≠ 0#7 →
    ResultPair (.dvsm rA rB rC uf) s rA uf .divSigned (s.xx rB) (s.xx rC)
      (fits s.settings.divOverflow.quotient54 (s.xx rB).toInt (s.xx rC).toInt (Int.tdiv (s.xx rB).toInt (s.xx rC).toInt)) ∧
    ResultPair (.dvism rA rB imm uf) s rA uf .divSigned (s.xx rB) (BitVec.ofInt 54 imm.toInt)
      (fits s.settings.divOverflow.quotient54 (s.xx rB).toInt imm.toInt (Int.tdiv (s.xx rB).toInt imm.toInt)) ∧
    ResultPair (.mdsm rA rB rC uf) s rA uf .modSigned (s.xx rB) (s.xx rC)
      (fits s.settings.divOverflow.remainder54 (s.xx rB).toInt (s.xx rC).toInt (Int.tmod (s.xx rB).toInt (s.xx rC).toInt)) ∧
    ResultPair (.mdism rA rB imm uf) s rA uf .modSigned (s.xx rB) (BitVec.ofInt 54 imm.toInt)
      (fits s.settings.divOverflow.remainder54 (s.xx rB).toInt imm.toInt (Int.tmod (s.xx rB).toInt imm.toInt))

/-- A zero divisor raises DivideByZero in all sixteen integer forms, whatever the destination, and nothing is written before
(41_multiply_divide_modulus.md R221). The exception and its place before the destination check are log 36. -/
def Obligations.ZeroDivisorRaises : Prop :=
  ∀ (rA rB rC : RegNo) (uf : Bool) (s : State),
    (s.x rC = 0#27 →
      Raises (.dv rA rB rC uf) s .divideByZero (some 3) ∧ Raises (.dvs rA rB rC uf) s .divideByZero (some 3) ∧
      Raises (.md rA rB rC uf) s .divideByZero (some 3) ∧ Raises (.mds rA rB rC uf) s .divideByZero (some 3)) ∧
    (s.xx rC = 0#54 →
      Raises (.dvm rA rB rC uf) s .divideByZero (some 3) ∧ Raises (.dvsm rA rB rC uf) s .divideByZero (some 3) ∧
      Raises (.mdm rA rB rC uf) s .divideByZero (some 3) ∧ Raises (.mdsm rA rB rC uf) s .divideByZero (some 3)) ∧
    Raises (.dvi rA rB 0#7 uf) s .divideByZero (some 3) ∧ Raises (.dvis rA rB 0#7 uf) s .divideByZero (some 3) ∧
    Raises (.mdi rA rB 0#7 uf) s .divideByZero (some 3) ∧ Raises (.mdis rA rB 0#7 uf) s .divideByZero (some 3) ∧
    Raises (.dvim rA rB 0#7 uf) s .divideByZero (some 3) ∧ Raises (.dvism rA rB 0#7 uf) s .divideByZero (some 3) ∧
    Raises (.mdim rA rB 0#7 uf) s .divideByZero (some 3) ∧ Raises (.mdism rA rB 0#7 uf) s .divideByZero (some 3)

/-! ## Logic -/

/-- AN, ANI, OR, ORI, XR, XRI, BF, NG, NT. The zero-extended immediates are log 41, the open flags C and O log 9. -/
def Obligations.LogicWords : Prop :=
  ∀ (rA rB rC : RegNo) (imm : BitVec 7) (uf : Bool) (s : State), rA ≠ s.pcReg →
    ResultWord (.an rA rB rC uf) s rA uf .and (s.x rB) (s.x rC) (s.x rB &&& s.x rC) ∧
    ResultWord (.ani rA rB imm uf) s rA uf .and (s.x rB) (BitVec.ofNat 27 imm.toNat)
      (BitVec.ofNat 27 ((s.x rB).toNat % 2 ^ 7 &&& imm.toNat)) ∧
    ResultWord (.or rA rB rC uf) s rA uf .or (s.x rB) (s.x rC) (s.x rB ||| s.x rC) ∧
    ResultWord (.ori rA rB imm uf) s rA uf .or (s.x rB) (BitVec.ofNat 27 imm.toNat)
      (BitVec.ofNat 27 ((s.x rB).toNat ||| imm.toNat)) ∧
    ResultWord (.xr rA rB rC uf) s rA uf .xor (s.x rB) (s.x rC) (s.x rB ^^^ s.x rC) ∧
    ResultWord (.xri rA rB imm uf) s rA uf .xor (s.x rB) (BitVec.ofNat 27 imm.toNat)
      (BitVec.ofNat 27 ((s.x rB).toNat ^^^ imm.toNat)) ∧
    ResultWord (.bf rA rB uf) s rA uf .bitFlip (s.x rB) 0#27 (BitVec.ofNat 27 (2 ^ 27 - 1 - (s.x rB).toNat)) ∧
    ResultWord (.ng rA rB uf) s rA uf .negate (s.x rB) 0#27 (BitVec.ofNat 27 (2 ^ 27 - (s.x rB).toNat)) ∧
    ResultWord (.nt rA rB uf) s rA uf .not (s.x rB) 0#27 (if (s.x rB).toNat = 0 then 1#27 else 0#27)

/-- ANM, ORM, XRM, BFM, NGM, NTM. The open flags C and O are log 9, the pairs log 10. -/
def Obligations.LogicPairs : Prop :=
  ∀ (rA rB rC : RegNo) (uf : Bool) (s : State), PairDest s rA →
    ResultPair (.anm rA rB rC uf) s rA uf .and (s.xx rB) (s.xx rC) (s.xx rB &&& s.xx rC) ∧
    ResultPair (.orm rA rB rC uf) s rA uf .or (s.xx rB) (s.xx rC) (s.xx rB ||| s.xx rC) ∧
    ResultPair (.xrm rA rB rC uf) s rA uf .xor (s.xx rB) (s.xx rC) (s.xx rB ^^^ s.xx rC) ∧
    ResultPair (.bfm rA rB uf) s rA uf .bitFlip (s.xx rB) 0#54 (BitVec.ofNat 54 (2 ^ 54 - 1 - (s.xx rB).toNat)) ∧
    ResultPair (.ngm rA rB uf) s rA uf .negate (s.xx rB) 0#54 (BitVec.ofNat 54 (2 ^ 54 - (s.xx rB).toNat)) ∧
    ResultPair (.ntm rA rB uf) s rA uf .not (s.xx rB) 0#54 (if (s.xx rB).toNat = 0 then 1#54 else 0#54)

/-! ## Shifts and rotates -/

/-- SL, SLI, SR, SRI, SA, SAI: the exact shift; the count is the whole register or the immediate, and a count of 27 or more
shifts every bit out, or gives what the function of `ShiftOver` gives (log 29). The open flags C and O are log 9. -/
def Obligations.ShiftWords : Prop :=
  ∀ (rA rB rC : RegNo) (imm : BitVec 7) (uf : Bool) (s : State), rA ≠ s.pcReg →
    let a := s.x rB
    let n := (s.x rC).toNat
    ResultWord (.sl rA rB rC uf) s rA uf .shiftLeft a (BitVec.ofNat 27 n)
      (shiftIs s .shiftLeft a n (if n < 27 then BitVec.ofNat 27 (a.toNat * 2 ^ n) else 0#27)) ∧
    ResultWord (.sli rA rB imm uf) s rA uf .shiftLeft a (BitVec.ofNat 27 imm.toNat)
      (shiftIs s .shiftLeft a imm.toNat (if imm.toNat < 27 then BitVec.ofNat 27 (a.toNat * 2 ^ imm.toNat) else 0#27)) ∧
    ResultWord (.sr rA rB rC uf) s rA uf .shiftRight a (BitVec.ofNat 27 n)
      (shiftIs s .shiftRight a n (if n < 27 then BitVec.ofNat 27 (a.toNat / 2 ^ n) else 0#27)) ∧
    ResultWord (.sri rA rB imm uf) s rA uf .shiftRight a (BitVec.ofNat 27 imm.toNat)
      (shiftIs s .shiftRight a imm.toNat (if imm.toNat < 27 then BitVec.ofNat 27 (a.toNat / 2 ^ imm.toNat) else 0#27)) ∧
    ResultWord (.sa rA rB rC uf) s rA uf .shiftArith a (BitVec.ofNat 27 n)
      (shiftIs s .shiftArith a n (BitVec.ofInt 27 (Int.fdiv a.toInt (2 ^ min n 27)))) ∧
    ResultWord (.sai rA rB imm uf) s rA uf .shiftArith a (BitVec.ofNat 27 imm.toNat)
      (shiftIs s .shiftArith a imm.toNat (BitVec.ofInt 27 (Int.fdiv a.toInt (2 ^ min imm.toNat 27))))

/-- SLM, SLIM, SRM, SRIM, SAM, SAIM: the same with 54 bits; the count is one register. The count is log 29, the open flags
are log 9. -/
def Obligations.ShiftPairs : Prop :=
  ∀ (rA rB rC : RegNo) (imm : BitVec 7) (uf : Bool) (s : State), PairDest s rA →
    let a := s.xx rB
    let n := (s.x rC).toNat
    ResultPair (.slm rA rB rC uf) s rA uf .shiftLeft a (BitVec.ofNat 54 n)
      (shiftIs s .shiftLeft a n (if n < 54 then BitVec.ofNat 54 (a.toNat * 2 ^ n) else 0#54)) ∧
    ResultPair (.slim rA rB imm uf) s rA uf .shiftLeft a (BitVec.ofNat 54 imm.toNat)
      (shiftIs s .shiftLeft a imm.toNat (if imm.toNat < 54 then BitVec.ofNat 54 (a.toNat * 2 ^ imm.toNat) else 0#54)) ∧
    ResultPair (.srm rA rB rC uf) s rA uf .shiftRight a (BitVec.ofNat 54 n)
      (shiftIs s .shiftRight a n (if n < 54 then BitVec.ofNat 54 (a.toNat / 2 ^ n) else 0#54)) ∧
    ResultPair (.srim rA rB imm uf) s rA uf .shiftRight a (BitVec.ofNat 54 imm.toNat)
      (shiftIs s .shiftRight a imm.toNat (if imm.toNat < 54 then BitVec.ofNat 54 (a.toNat / 2 ^ imm.toNat) else 0#54)) ∧
    ResultPair (.sam rA rB rC uf) s rA uf .shiftArith a (BitVec.ofNat 54 n)
      (shiftIs s .shiftArith a n (BitVec.ofInt 54 (Int.fdiv a.toInt (2 ^ min n 54)))) ∧
    ResultPair (.saim rA rB imm uf) s rA uf .shiftArith a (BitVec.ofNat 54 imm.toNat)
      (shiftIs s .shiftArith a imm.toNat (BitVec.ofInt 54 (Int.fdiv a.toInt (2 ^ min imm.toNat 54))))

/-- RL, RLI, RR, RRI: bit i goes to bit (i + n) mod 27, or to bit (i - n) mod 27, and no bit is lost; a count of more than 27
gives what the function of `ShiftOver` gives, where it is one. The count modulo 27 is log 29, the open flags are log 9. -/
def Obligations.RotateWords : Prop :=
  ∀ (rA rB rC : RegNo) (imm : BitVec 7) (uf : Bool) (s : State), rA ≠ s.pcReg →
    let a := s.x rB
    let n := (s.x rC).toNat
    (∃ r : Word, ResultWord (.rl rA rB rC uf) s rA uf .rotateLeft a (BitVec.ofNat 27 n) r ∧
      RotateIs s .rotateLeft a n r (∀ i < 27, r.getLsbD ((i + n) % 27) = a.getLsbD i)) ∧
    (∃ r : Word, ResultWord (.rli rA rB imm uf) s rA uf .rotateLeft a (BitVec.ofNat 27 imm.toNat) r ∧
      RotateIs s .rotateLeft a imm.toNat r (∀ i < 27, r.getLsbD ((i + imm.toNat) % 27) = a.getLsbD i)) ∧
    (∃ r : Word, ResultWord (.rr rA rB rC uf) s rA uf .rotateRight a (BitVec.ofNat 27 n) r ∧
      RotateIs s .rotateRight a n r (∀ i < 27, r.getLsbD i = a.getLsbD ((i + n) % 27))) ∧
    (∃ r : Word, ResultWord (.rri rA rB imm uf) s rA uf .rotateRight a (BitVec.ofNat 27 imm.toNat) r ∧
      RotateIs s .rotateRight a imm.toNat r (∀ i < 27, r.getLsbD i = a.getLsbD ((i + imm.toNat) % 27)))

/-- RLM, RLIM, RRM, RRIM: the same modulo 54; the count is one register. The count modulo 54 is log 29, the open flags are
log 9. -/
def Obligations.RotatePairs : Prop :=
  ∀ (rA rB rC : RegNo) (imm : BitVec 7) (uf : Bool) (s : State), PairDest s rA →
    let a := s.xx rB
    let n := (s.x rC).toNat
    (∃ r : Pair, ResultPair (.rlm rA rB rC uf) s rA uf .rotateLeft a (BitVec.ofNat 54 n) r ∧
      RotateIs s .rotateLeft a n r (∀ i < 54, r.getLsbD ((i + n) % 54) = a.getLsbD i)) ∧
    (∃ r : Pair, ResultPair (.rlim rA rB imm uf) s rA uf .rotateLeft a (BitVec.ofNat 54 imm.toNat) r ∧
      RotateIs s .rotateLeft a imm.toNat r (∀ i < 54, r.getLsbD ((i + imm.toNat) % 54) = a.getLsbD i)) ∧
    (∃ r : Pair, ResultPair (.rrm rA rB rC uf) s rA uf .rotateRight a (BitVec.ofNat 54 n) r ∧
      RotateIs s .rotateRight a n r (∀ i < 54, r.getLsbD i = a.getLsbD ((i + n) % 54))) ∧
    (∃ r : Pair, ResultPair (.rrim rA rB imm uf) s rA uf .rotateRight a (BitVec.ofNat 54 imm.toNat) r ∧
      RotateIs s .rotateRight a imm.toNat r (∀ i < 54, r.getLsbD i = a.getLsbD ((i + imm.toNat) % 54)))

/-! ## Moves, extends, random -/

/-- MH, ML, MS, SES, SEW, ZES, ZEW: the value written, and the flags under `NoUFFlagPolicy`. The setting is log 12, the
extension of the immediates log 41. -/
def Obligations.MovesAndExtends : Prop :=
  ∀ (rA rB : RegNo) (imm : BitVec 17) (s : State), rA ≠ s.pcReg →
    let wrote (i : Instr) (op : FlagOp) (a b r : Word) : Prop := PolicyWord i s rA op a b r (r == 0#27) r.msb
    wrote (.mh rA imm) .moveHigh (s.x rA) (BitVec.ofNat 27 imm.toNat)
      (BitVec.ofNat 27 (imm.toNat * 2 ^ 10 + (s.x rA).toNat % 2 ^ 10)) ∧
    wrote (.ml rA imm) .moveLow (BitVec.ofNat 27 imm.toNat) 0#27 (BitVec.ofNat 27 imm.toNat) ∧
    wrote (.ms rA imm) .moveLowSigned (BitVec.ofInt 27 imm.toInt) 0#27 (BitVec.ofInt 27 imm.toInt) ∧
    wrote (.ses rA rB) .signExtendSingle (s.x rB) 0#27 (BitVec.ofInt 27 (BitVec.ofNat 9 (s.x rB).toNat).toInt) ∧
    wrote (.sew rA rB) .signExtendWord (s.x rB) 0#27 (BitVec.ofInt 27 (BitVec.ofNat 18 (s.x rB).toNat).toInt) ∧
    wrote (.zes rA rB) .zeroExtendSingle (s.x rB) 0#27 (BitVec.ofNat 27 ((s.x rB).toNat % 2 ^ 9)) ∧
    wrote (.zew rA rB) .zeroExtendWord (s.x rB) 0#27 (BitVec.ofNat 27 ((s.x rB).toNat % 2 ^ 18))

/-- RND and RNDM complete with some value, about which nothing is said but that Z and S are taken from it when UF is 1. The
drawn value is log 2, the length of three bytes log 53. -/
def Obligations.RandomCompletes : Prop :=
  ∀ (rA : RegNo) (uf : Bool) (s : State), rA ≠ s.pcReg →
    (∃ r : Word, ResultWord (.rnd rA uf) s rA uf .random 0#27 0#27 r) ∧
    (rA + 1 ≠ s.pcReg → ∃ r : Pair, ResultPair (.rndm rA uf) s rA uf .random 0#54 0#54 r)

/-! ## Compare -/

/-- CM and CMI: their words decode to them, and the four flags are those of the 28-bit difference by the printed formulas
(or the standard overflow formula, as `SubOverflow` says); bits 4 to 26 of FLAGS and all else are kept (45_compare.md R321,
R322). The setting is log 13, the sign extension of the immediate log 41. -/
def Obligations.CompareWords : Prop :=
  ∀ (rA rB : RegNo) (imm : BitVec 14) (s : State),
    let a := s.x rA
    let compared (i : Instr) (len : Nat) (b : Word) : Prop :=
      let t := BitVec.ofInt 28 ((a.toNat : Int) - b.toNat)
      Compared i s len (t == 0#28) (t.getLsbD 27)
        (overflowOf s.settings.subOverflow (a.getLsbD 26) (b.getLsbD 26) (t.getLsbD 26))
        (t.getLsbD 26)
    decodeWord s.settings.condTable 2 (0b10111000 * 2 ^ 10 + rA.val * 2 ^ 5 + rB.val) = .ok (.cm rA rB) ∧
    decodeWord s.settings.condTable 3 (0b10111001 * 2 ^ 19 + rA.val * 2 ^ 14 + imm.toNat) = .ok (.cmi rA imm) ∧
    compared (.cm rA rB) 2 (s.x rB) ∧ compared (.cmi rA imm) 3 (BitVec.ofInt 27 imm.toInt)

/-- CMM and CMIM: the same with 54-bit operands and a 55-bit difference (45_compare.md R323, R324). The setting is log 13,
the sign extension of the immediate log 41, the pairs log 10. -/
def Obligations.ComparePairs : Prop :=
  ∀ (rA rB : RegNo) (imm : BitVec 14) (s : State),
    let a := s.xx rA
    let compared (i : Instr) (len : Nat) (b : Pair) : Prop :=
      let t := BitVec.ofInt 55 ((a.toNat : Int) - b.toNat)
      Compared i s len (t == 0#55) (t.getLsbD 54)
        (overflowOf s.settings.subOverflow (a.getLsbD 53) (b.getLsbD 53) (t.getLsbD 53))
        (t.getLsbD 53)
    decodeWord s.settings.condTable 2 (0b10111100 * 2 ^ 10 + rA.val * 2 ^ 5 + rB.val) = .ok (.cmm rA rB) ∧
    decodeWord s.settings.condTable 3 (0b10111101 * 2 ^ 19 + rA.val * 2 ^ 14 + imm.toNat) = .ok (.cmim rA imm) ∧
    compared (.cmm rA rB) 2 (s.xx rB) ∧ compared (.cmim rA imm) 3 (BitVec.ofInt 54 imm.toInt)

/-! ## Branch, call, return -/

/-- B, BR, C and CR: the target and RA when the predicate of the condition's row holds of Z, C, O and S, the next instruction
when it does not; a value with no row raises InvalidInstruction; CR reads its register after RA is written
(46_branch_call.md R330, R331, R332, R335, R336). The condition table is log 14, the order in CR log 44. -/
def Obligations.ConditionalTransfers : Prop :=
  ∀ (cond : Fin 16) (offset : BitVec 17) (rA : RegNo) (s : State),
    (Takes s cond →
      JumpedTo (.b cond offset) s (s.pc + BitVec.ofInt 27 offset.toInt) ∧ JumpedTo (.br cond rA) s (s.x rA) ∧
      CalledTo (.c cond offset) s 3 (s.pc + BitVec.ofInt 27 offset.toInt) ∧
      CalledTo (.cr cond rA) s 2 (if rA = s.raReg then s.pc + 2#27 else s.x rA)) ∧
    (Passes s cond →
      JumpedTo (.b cond offset) s (s.pc + 3#27) ∧ JumpedTo (.br cond rA) s (s.pc + 2#27) ∧
      JumpedTo (.c cond offset) s (s.pc + 3#27) ∧ JumpedTo (.cr cond rA) s (s.pc + 2#27)) ∧
    (s.settings.condTable[cond.val] = none →
      Raises (.b cond offset) s .invalidInstruction (some 3) ∧ Raises (.c cond offset) s .invalidInstruction (some 3) ∧
      Raises (.br cond rA) s .invalidInstruction (some 2) ∧ Raises (.cr cond rA) s .invalidInstruction (some 2))

/-- The condition table (46_branch_call.md R330, the default of `CondTable`, log 14): its fifteen rows on Z, C, O and S, and
no row for 1110. After CM of two registers the unsigned conditions compare the operands as unsigned numbers; with
`SubOverflow = standard` the signed conditions compare them as signed numbers; with the printed formula they ask for the
sign of the first operand only (90_conflicts.md C8). The setting is log 13. -/
def Obligations.ConditionsAfterCompare : Prop :=
  ∀ (rA rB : RegNo) (s : State), s.settings.condTable = .default →
    (let z := zOf s = true
     let c := cOf s = true
     let o := oOf s = true
     let sg := sOf s = true
     (Takes s 0 ↔ ¬ z) ∧ (Takes s 1 ↔ z) ∧ (Takes s 2 ↔ c ∧ ¬ z) ∧ (Takes s 3 ↔ c ∨ z) ∧ (Takes s 4 ↔ ¬ c ∧ ¬ z) ∧
       (Takes s 5 ↔ ¬ c ∨ z) ∧ (Takes s 6 ↔ ¬ o) ∧ (Takes s 7 ↔ o) ∧ (Takes s 8 ↔ ¬ sg) ∧ (Takes s 9 ↔ sg) ∧
       (Takes s 10 ↔ ¬ (sg ↔ o)) ∧ (Takes s 11 ↔ ¬ (sg ↔ o) ∨ z) ∧ (Takes s 12 ↔ (sg ↔ o) ∧ ¬ z) ∧
       (Takes s 13 ↔ (sg ↔ o)) ∧ Takes s 15 ∧ s.settings.condTable[14] = none ∧
       ∀ cond : Fin 16, cond ≠ 14 → (Passes s cond ↔ ¬ Takes s cond)) ∧
    ∃ t, exec (.cm rA rB) s = .next t ∧
      (let a := (s.x rA).toNat
       let b := (s.x rB).toNat
       (Takes t 0 ↔ a ≠ b) ∧ (Takes t 1 ↔ a = b) ∧ (Takes t 2 ↔ a < b) ∧ (Takes t 3 ↔ a ≤ b) ∧ (Takes t 4 ↔ b < a) ∧
         (Takes t 5 ↔ b ≤ a) ∧ Takes t 15) ∧
      (let a := (s.x rA).toInt
       let b := (s.x rB).toInt
       match s.settings.subOverflow with
       | .standard =>
         (Takes t 10 ↔ a < b) ∧ (Takes t 11 ↔ a ≤ b) ∧ (Takes t 12 ↔ b < a) ∧ (Takes t 13 ↔ b ≤ a)
       | .source =>
         (Takes t 10 ↔ a < 0) ∧ (Takes t 11 ↔ a < 0 ∨ a = b) ∧ (Takes t 12 ↔ 0 ≤ a ∧ a ≠ b) ∧ (Takes t 13 ↔ 0 ≤ a))

/-- BRA and BRR: their words decode to them; the program counter is the location, or the instruction's address plus the
offset modulo 2^27; nothing else changes (46_branch_call.md R333, R334). -/
def Obligations.UnconditionalBranches : Prop :=
  ∀ (v : BitVec 27) (s : State),
    decodeWord s.settings.condTable 4 (0b111000100 * 2 ^ 27 + v.toNat) = .ok (.bra v) ∧
    decodeWord s.settings.condTable 4 (0b111000000 * 2 ^ 27 + v.toNat) = .ok (.brr v) ∧
    JumpedTo (.bra v) s v ∧ JumpedTo (.brr v) s (BitVec.ofNat 27 (s.pc.toNat + v.toNat))

/-- CAA, CAR and RE: a call writes the address four bytes on to RA; RE continues at RA (46_branch_call.md R337, R338, R339).
RA is by default register 29 (log 6). -/
def Obligations.CallsAndReturn : Prop :=
  ∀ (v : BitVec 27) (s : State),
    CalledTo (.caa v) s 4 v ∧ CalledTo (.car v) s 4 (s.pc + v) ∧ JumpedTo .re s (s.x s.raReg)

/-- The undefined field values raise InvalidInstruction and do nothing before: Condition `1110` of the default table and
Adjust rB 3 (46_branch_call.md R330, 47_load_store.md R350). This reading of an undefined field is log 35. -/
def Obligations.ReservedFieldsRaise : Prop :=
  ∀ (rA rB : RegNo) (off17 : BitVec 17) (count : Fin 32) (off27 : BitVec 27) (z : Size) (s : State),
    (s.settings.condTable = .default →
      Raises (.b 14 off17) s .invalidInstruction (some 3) ∧ Raises (.br 14 rA) s .invalidInstruction (some 2) ∧
      Raises (.c 14 off17) s .invalidInstruction (some 3) ∧ Raises (.cr 14 rA) s .invalidInstruction (some 2)) ∧
    Raises (loadOf z rA rB count 3 off27) s .invalidInstruction (some 6) ∧
    Raises (storeOf z rA rB count 3 off27) s .invalidInstruction (some 6)

/-! ## Loads, stores, transfer -/

/-- LDS, LDW, LDT with every byte readable: all registers of the range, rB by the mode, the frame (47_load_store.md R350 to
R353). The base update is log 55, the protection values log 15, the plain region log 16. -/
def Obligations.LoadsComplete : Prop :=
  ∀ (z : Size) (rA rB : RegNo) (count : Fin 32) (mode : Fin 4) (offset : BitVec 27) (s : State), mode ≠ 3 →
    AllReadable s (s.moveLoc z rB count mode offset) (moved z count) →
      Loads (loadOf z rA rB count mode offset) z rA rB count mode offset s

/-- STS, STW, STT with every byte writable, and no update of the program counter as rB: the bytes stored, rB by the mode,
the frame (47_load_store.md R354 to R356). The base update is log 55, the protection values log 15, the plain region log 16.
-/
def Obligations.StoresComplete : Prop :=
  ∀ (z : Size) (rA rB : RegNo) (count : Fin 32) (mode : Fin 4) (offset : BitVec 27) (s : State), mode ≠ 3 →
    (rB = s.pcReg → mode = 0) → AllWritable s (s.moveLoc z rB count mode offset) (moved z count) →
      Stores (storeOf z rA rB count mode offset) z rA rB count mode offset s

/-- A store whose mode would update the program counter as rB is refused once its bytes are stored (10_state.md R25 (e), log
27). -/
def Obligations.StoreUpdatingPcRefused : Prop :=
  ∀ (z : Size) (rA : RegNo) (count : Fin 32) (mode : Fin 4) (offset : BitVec 27) (s : State), mode = 1 ∨ mode = 2 →
    AllWritable s (s.moveLoc z s.pcReg count mode offset) (moved z count) →
      exec (storeOf z rA s.pcReg count mode offset) s = .refused .writeToR31

/-- A load that meets a byte its page does not let it read takes MemoryException: the registers before that byte's element
are loaded, rB is not updated, and nothing else has changed (47_load_store.md R350, 60_exceptions.md R508). What a denied
access keeps is log 40, the check of each byte's own page log 51. -/
def Obligations.LoadDeniedPartWay : Prop :=
  ∀ (z : Size) (rA rB : RegNo) (count : Fin 32) (mode : Fin 4) (offset : BitVec 27) (s : State) (k j : Nat), mode ≠ 3 →
    k ≤ count.val → j < z.bytes →
    let loc := s.moveLoc z rB count mode offset
    let a := loc + BitVec.ofNat 27 (k * z.bytes + j)
    AllReadable s loc (k * z.bytes + j) → s.plain a = true → s.allows .read a = false →
      ∃ u, exec (loadOf z rA rB count mode offset) s = .next (u.takeException (.memoryException .read a) (some 6)) ∧
        (∀ q, q ≠ s.pcReg → u.x q = loadedReg s z rA k loc q) ∧ u.pc = s.pc ∧ SameRest s u

/-- A store that meets a byte its page does not let it write takes MemoryException: the bytes before it are stored, no
register has changed (47_load_store.md R350, 60_exceptions.md R508). What a denied access keeps is log 40, the check of each
byte's own page log 51. -/
def Obligations.StoreDeniedPartWay : Prop :=
  ∀ (z : Size) (rA rB : RegNo) (count : Fin 32) (mode : Fin 4) (offset : BitVec 27) (s : State) (k : Fin 32) (j : Nat),
    mode ≠ 3 → k ≤ count → j < z.bytes →
    let loc := s.moveLoc z rB count mode offset
    let a := loc + BitVec.ofNat 27 (k.val * z.bytes + j)
    AllWritable s loc (k.val * z.bytes + j) → s.plain a = true → s.allows .write a = false →
      ∃ u, exec (storeOf z rA rB count mode offset) s = .next (u.takeException (.memoryException .write a) (some 6)) ∧
        (∀ (m : Fin 32) (i : Nat), i < z.bytes → m.val * z.bytes + i < k.val * z.bytes + j →
          u.mem.byteAt (loc + BitVec.ofNat 27 (m.val * z.bytes + i)) = some (storedByte z (s.x (rA + m)) i)) ∧
        (∀ b : Addr, k.val * z.bytes + j ≤ (b - loc).toNat → u.mem.byteAt b = s.mem.byteAt b) ∧
        (∀ b : Addr, u.stored.has b = (decide ((b - loc).toNat < k.val * z.bytes + j) || s.stored.has b)) ∧
        SameRegisters s u ∧ u.pc = s.pc ∧ SameProtection s u ∧ SameMachine s u

/-- Which bytes are plain memory, which accesses a page allows, and which fetches are stale. The default protection values
(20_memory.md R71, log 15): 0 allows nothing, 1 reading, 2 reading and writing, 3 reading and fetching. The default address
map (R68, log 16): 0 to 0x3FFFFFF and 0x7FFFF00 to 0x7FFFF1A are plain memory, every other address is a device or unmapped and
an access to it is refused by its name (log 17). A page is 1024 bytes (R70). With `FetchCoherent = false` a fetch of a stored
byte is stale (R79, log 34). -/
def Obligations.ProtectionAndMap : Prop :=
  ∀ (s : State) (a : Addr),
    let v := s.prot.ofPage (a.toNat / 1024)
    let n := a.toNat
    let m := s.settings.memMap
    ((s.allows .read a = true ↔ s.settings.perm.read.getLsbD v.toNat = true) ∧
      (s.allows .write a = true ↔ s.settings.perm.write.getLsbD v.toNat = true) ∧
      (s.allows .fetch a = true ↔ s.settings.perm.fetch.getLsbD v.toNat = true)) ∧
    (s.settings.perm = .default →
      (v = 0#2 → s.allows .read a = false ∧ s.allows .write a = false ∧ s.allows .fetch a = false) ∧
      (v = 1#2 → s.allows .read a = true ∧ s.allows .write a = false ∧ s.allows .fetch a = false) ∧
      (v = 2#2 → s.allows .read a = true ∧ s.allows .write a = true ∧ s.allows .fetch a = false) ∧
      (v = 3#2 → s.allows .read a = true ∧ s.allows .write a = false ∧ s.allows .fetch a = true)) ∧
    (∀ before r after, m = before ++ r :: after → (∀ q ∈ before, n < q.first ∨ q.last < n) → r.first ≤ n → n ≤ r.last →
      (s.plain a = true ↔ r.region = .memory ∨ r.region = .pointerTable) ∧
      s.regionRefusal a = if r.region = .unmapped then .unmappedAccess a else .deviceAccess r.region a) ∧
    ((∀ q ∈ m, n < q.first ∨ q.last < n) → s.plain a = false ∧ s.regionRefusal a = .unmappedAccess a) ∧
    (m = .default →
      (s.plain a = true ↔ n ≤ 0x3FFFFFF ∨ 0x7FFFF00 ≤ n ∧ n ≤ 0x7FFFF1A) ∧
      (s.plain a = false → s.regionRefusal a =
        if 0x4000000 ≤ n ∧ n ≤ 0x400001E then .deviceAccess .clock a
        else if 0x4010000 ≤ n ∧ n ≤ 0x4011FFF then .deviceAccess .flagIO a
        else if 0x5000000 ≤ n ∧ n ≤ 0x5001FFF then .deviceAccess .dataReceived a
        else if 0x5002000 ≤ n ∧ n ≤ 0x5002002 then .deviceAccess .dataReceivedSize a
        else if 0x5010000 ≤ n ∧ n ≤ 0x5011FFF then .deviceAccess .dataSent a
        else if 0x5012000 ≤ n ∧ n ≤ 0x5012002 then .deviceAccess .dataSentSize a
        else if 0x6000000 ≤ n ∧ n ≤ 0x67FFFFF then .deviceAccess .sharedMemory a
        else if 0x6800000 ≤ n ∧ n ≤ 0x6FFFFFF then .deviceAccess .nvram a
        else if 0x7FFFF80 ≤ n then .deviceAccess .processorId a
        else .unmappedAccess a)) ∧
    (s.stale .fetch a = true ↔ s.settings.fetchCoherent = false ∧ s.stored.has a = true) ∧ s.stale .read a = false

/-- A load or store that meets a byte outside plain memory, at any place of its range, is refused by the name of its region; a
load that meets a byte nothing has written stops with a model fault (20_memory.md R68, 70_reset_and_hazards.md R600). The
regions are log 16, their refusal log 17, the byte without a value log 5, the order of the accesses log 40. -/
def Obligations.AccessesThatStop : Prop :=
  ∀ (z : Size) (rA rB : RegNo) (count : Fin 32) (mode : Fin 4) (offset : BitVec 27) (s : State) (m : Nat), mode ≠ 3 →
    m < moved z count →
    let loc := s.moveLoc z rB count mode offset
    let a := loc + BitVec.ofNat 27 m
    (AllReadable s loc m → s.plain a = false →
      exec (loadOf z rA rB count mode offset) s = .refused (s.regionRefusal a)) ∧
    (AllWritable s loc m → s.plain a = false →
      exec (storeOf z rA rB count mode offset) s = .refused (s.regionRefusal a)) ∧
    (AllReadable s loc m → s.plain a = true → s.allows .read a = true → s.mem.byteAt a = none →
      exec (loadOf z rA rB count mode offset) s = .fault (.unwrittenByte a))

/-- DMT copies byte by byte, ascending: the byte at dst + p is what src + p held, or, where the copy itself wrote src + p
before, what it wrote there; bytes outside the destination and all registers are kept. A byte that cannot be read or written
ends it part way: a page that forbids the access raises MemoryException of kind read or write at that byte, with the bytes
before it copied; a byte outside plain memory is refused, a source byte that nothing has written is a model fault
(47_load_store.md R357, 60_exceptions.md R508, 20_memory.md R68, 70_reset_and_hazards.md R600). The whole copy in one step is
log 45, the order of the accesses and what a denied one keeps log 40, the regions log 16 and log 17, the byte without a value
log 5. -/
def Obligations.TransferCopies : Prop :=
  ∀ (rA rB rC : RegNo) (s : State),
    let dst := s.x rA
    let src := s.x rB
    let n := (s.x rC).toNat
    let i : Instr := .dmt rA rB rC
    (CopyRuns s dst src n → ∃ t, exec i s = .next t ∧ Copied s t dst src n ∧ t.pc = s.pc + 3#27) ∧
    (∀ m < n, CopyRuns s dst src m →
      let a := src + BitVec.ofNat 27 m
      let d := dst + BitVec.ofNat 27 m
      let denied (k : AccessKind) (at_ : Addr) : Prop :=
        ∃ u, exec i s = .next (u.takeException (.memoryException k at_) (some 3)) ∧ Copied s u dst src m ∧ u.pc = s.pc
      (s.plain a = true → s.allows .read a = false → denied .read a) ∧
      (s.plain a = false → exec i s = .refused (s.regionRefusal a)) ∧
      (s.plain a = true → s.allows .read a = true → s.mem.byteAt a = none → m ≤ (a - dst).toNat →
        exec i s = .fault (.unwrittenByte a)) ∧
      (CopyReads s dst src m → s.plain d = true → s.allows .write d = false → denied .write d) ∧
      (CopyReads s dst src m → s.plain d = false → exec i s = .refused (s.regionRefusal d)))

/-- The byte order of memory: a Single is one byte, its low 9 bits; a Word lies high byte first; a Tri middle, high, low; a
value written is read back (20_memory.md R62, R63, R64). -/
def Obligations.ByteOrderOfData : Prop :=
  ∀ (s : State) (a : Addr) (v : Word),
    (∀ z : Size, AllReadable s a z.bytes → s.readValue z a = .ok (elementAt s z a)) ∧
    (∀ z : Size, AllWritable s a z.bytes → ∃ t, s.writeValue z a v = .done t ∧
      (∀ j < z.bytes, t.mem.byteAt (a + BitVec.ofNat 27 j) = some (storedByte z v j)) ∧
      (∀ b : Addr, z.bytes ≤ (b - a).toNat → t.mem.byteAt b = s.mem.byteAt b) ∧
      ((∀ j < z.bytes, s.allows .read (a + BitVec.ofNat 27 j) = true) →
        t.readValue z a = .ok (BitVec.ofNat 27 (v.toNat % 2 ^ (9 * z.bytes)))))

/-! ## Floating point -/

/-- ADF, SBF, MUF and their pair forms: the result of `FloatOps` on rB and rC, with the flags and the frame (48_float.md
R371 to R377). The functions are opaque constants of Config (log 11); the open flags are log 9. -/
def Obligations.FloatArithmetic : Prop :=
  ∀ (rA rB rC : RegNo) (uf : Bool) (s : State), rA ≠ s.pcReg →
    FloatWord (.adf rA rB rC uf) s rA uf .floatAdd (s.x rB) (s.x rC) (Config.fadd 27 (s.x rB) (s.x rC)) ∧
    FloatWord (.sbf rA rB rC uf) s rA uf .floatSub (s.x rB) (s.x rC) (Config.fsub 27 (s.x rB) (s.x rC)) ∧
    FloatWord (.muf rA rB rC uf) s rA uf .floatMul (s.x rB) (s.x rC) (Config.fmul 27 (s.x rB) (s.x rC)) ∧
    (rA + 1 ≠ s.pcReg →
      FloatPair (.adfm rA rB rC uf) s rA uf .floatAdd (s.xx rB) (s.xx rC) (Config.fadd 54 (s.xx rB) (s.xx rC)) ∧
      FloatPair (.sbfm rA rB rC uf) s rA uf .floatSub (s.xx rB) (s.xx rC) (Config.fsub 54 (s.xx rB) (s.xx rC)) ∧
      FloatPair (.mufm rA rB rC uf) s rA uf .floatMul (s.xx rB) (s.xx rC) (Config.fmul 54 (s.xx rB) (s.xx rC)))

/-- DVF, MDF and their pair forms: DivideByZero exactly when `fdivfault` says so, else the result of `FloatOps` (48_float.md
R370, R378 to R381). The functions are opaque constants of Config (log 11); the open flags are log 9. -/
def Obligations.FloatDivision : Prop :=
  ∀ (rA rB rC : RegNo) (uf : Bool) (s : State), rA ≠ s.pcReg →
    (if Config.fdivfault 27 (s.x rB) (s.x rC) then
      Raises (.dvf rA rB rC uf) s .divideByZero (some 3) ∧ Raises (.mdf rA rB rC uf) s .divideByZero (some 3)
    else
      FloatWord (.dvf rA rB rC uf) s rA uf .floatDiv (s.x rB) (s.x rC) (Config.fdiv 27 (s.x rB) (s.x rC)) ∧
      FloatWord (.mdf rA rB rC uf) s rA uf .floatMod (s.x rB) (s.x rC) (Config.fmod 27 (s.x rB) (s.x rC))) ∧
    (rA + 1 ≠ s.pcReg →
      if Config.fdivfault 54 (s.xx rB) (s.xx rC) then
        Raises (.dvfm rA rB rC uf) s .divideByZero (some 3) ∧ Raises (.mdfm rA rB rC uf) s .divideByZero (some 3)
      else
        FloatPair (.dvfm rA rB rC uf) s rA uf .floatDiv (s.xx rB) (s.xx rC) (Config.fdiv 54 (s.xx rB) (s.xx rC)) ∧
        FloatPair (.mdfm rA rB rC uf) s rA uf .floatMod (s.xx rB) (s.xx rC) (Config.fmod 54 (s.xx rB) (s.xx rC)))

/-- CMF and CMFM clear C and set Z, S and O from the comparison; NGF and NGFM write Z and S only; ITF, FTI and their pair
forms follow `NoUFFlagPolicy` (48_float.md R371, R382 to R389). The functions are opaque constants of Config (log 11); the
setting is log 12. -/
def Obligations.FloatCompareNegateConvert : Prop :=
  ∀ (rA rB : RegNo) (uf : Bool) (s : State),
    (let t := Config.fsub 27 (s.x rA) (s.x rB);
      Compared (.cmf rA rB) s 2 (Config.fzero 27 t) false (Config.fltz 27 t != Config.fltz 27 (s.x rA)) (Config.fltz 27 t)) ∧
    (let t := Config.fsub 54 (s.xx rA) (s.xx rB);
      Compared (.cmfm rA rB) s 2 (Config.fzero 54 t) false (Config.fltz 54 t != Config.fltz 54 (s.xx rA))
        (Config.fltz 54 t)) ∧
    (rA ≠ s.pcReg →
      (let r := Config.fneg 27 (s.x rB);
        ∃ t, exec (.ngf rA rB uf) s = .next t ∧
          WroteWord s t rA 3 r (ufVal uf (Config.fzero 27 r)) .kept .kept (ufVal uf (Config.fltz 27 r))) ∧
      (let r := Config.itf 27 (s.x rB);
        PolicyWord (.itf rA rB) s rA .intToFloat (s.x rB) 0#27 r (Config.fzero 27 r) (Config.fltz 27 r)) ∧
      (let r := Config.fti 27 (s.x rB);
        PolicyWord (.fti rA rB) s rA .floatToInt (s.x rB) 0#27 r (r == 0#27) r.msb)) ∧
    (PairDest s rA →
      (let r := Config.fneg 54 (s.xx rB);
        ∃ t, exec (.ngfm rA rB uf) s = .next t ∧
          WrotePair s t rA r (ufVal uf (Config.fzero 54 r)) .kept .kept (ufVal uf (Config.fltz 54 r))) ∧
      (let r := Config.itf 54 (s.xx rB);
        PolicyPair (.itfm rA rB) s rA .intToFloat (s.xx rB) 0#54 r (Config.fzero 54 r) (Config.fltz 54 r)) ∧
      (let r := Config.fti 54 (s.xx rB);
        PolicyPair (.ftim rA rB) s rA .floatToInt (s.xx rB) 0#54 r (r == 0#54) r.msb))

/-! ## System instructions -/

/-- EI and DI: their words decode to them, and a word with its last bit set is undefined; FLAGS bits 4 to 12 become the low
nine bits of rA, or their complement; every other bit of FLAGS, every other register and all else are kept (49_system.md
R401, R402). -/
def Obligations.InterruptEnables : Prop :=
  ∀ (rA : RegNo) (s : State),
    let replaced (i : Instr) (v : Word) : Prop :=
      ∃ t, exec i s = .next t ∧
        (∀ j < 27, t.flags.getLsbD j = if 4 ≤ j ∧ j ≤ 12 then v.getLsbD (j - 4) else s.flags.getLsbD j) ∧
        (∀ q, q ≠ s.flagsReg → q ≠ s.pcReg → t.x q = s.x q) ∧ t.pc = s.pc + 2#27 ∧ SameRest s t
    decodeWord s.settings.condTable 2 (0b101000000100 * 2 ^ 6 + rA.val * 2) = .ok (.ei rA) ∧
    decodeWord s.settings.condTable 2 (0b101000000101 * 2 ^ 6 + rA.val * 2) = .ok (.di rA) ∧
    decodeWord s.settings.condTable 2 (0b101000000100 * 2 ^ 6 + rA.val * 2 + 1) = .error .unassigned ∧
    decodeWord s.settings.condTable 2 (0b101000000101 * 2 ^ 6 + rA.val * 2 + 1) = .error .unassigned ∧
    replaced (.ei rA) (s.x rA) ∧ replaced (.di rA) (~~~(s.x rA))

/-- SF and RF: SF replaces the whole of FLAGS by rA; RF copies the whole of FLAGS to rA; their words decode to them
(49_system.md R405, R406). RF to the program counter is refused (log 47); a word of either with its last bit set is undefined
(log 35). -/
def Obligations.FlagTransfers : Prop :=
  ∀ (rA : RegNo) (s : State),
    decodeWord s.settings.condTable 2 (0b101000001011 * 2 ^ 6 + rA.val * 2) = .ok (.sf rA) ∧
    decodeWord s.settings.condTable 2 (0b101000001100 * 2 ^ 6 + rA.val * 2) = .ok (.rf rA) ∧
    decodeWord s.settings.condTable 2 (0b101000001011 * 2 ^ 6 + rA.val * 2 + 1) = .error .unassigned ∧
    decodeWord s.settings.condTable 2 (0b101000001100 * 2 ^ 6 + rA.val * 2 + 1) = .error .unassigned ∧
    (∃ t, exec (.sf rA) s = .next t ∧ t.flags = s.x rA ∧ (∀ q, q ≠ s.flagsReg → q ≠ s.pcReg → t.x q = s.x q) ∧
      t.pc = s.pc + 2#27 ∧ SameRest s t) ∧
    (rA ≠ s.pcReg → ∃ t, exec (.rf rA) s = .next t ∧ t.x rA = s.flags ∧ (∀ q, q ≠ rA → q ≠ s.pcReg → t.x q = s.x q) ∧
      t.pc = s.pc + 2#27 ∧ SameRest s t) ∧
    exec (.rf s.pcReg) s = .refused .writeToR31

/-- HT clears the nine enables and halts at its own address; WT waits at the next instruction; DBRK raises
InvalidInstruction (49_system.md R403, R409, R410). The run states are log 31 and log 52. -/
def Obligations.HaltWaitBreak : Prop :=
  ∀ s : State,
    (∃ t, exec .ht s = .next t ∧ t.runState = .halted ∧ t.pc = s.pc ∧
      (∀ j < 27, t.flags.getLsbD j = if 4 ≤ j ∧ j ≤ 12 then false else s.flags.getLsbD j) ∧
      (∀ q, q ≠ s.flagsReg → q ≠ s.pcReg → t.x q = s.x q) ∧ SameMemory s t ∧ SameProtection s t ∧ t.pending = s.pending ∧
      t.settings = s.settings ∧ t.arrivals = s.arrivals) ∧
    (∃ t, exec .wt s = .next t ∧ t.runState = .waiting ∧ t.pc = s.pc + 2#27 ∧ SameRegisters s t ∧ SameMemory s t ∧
      SameProtection s t ∧ t.pending = s.pending ∧ t.settings = s.settings ∧ t.arrivals = s.arrivals) ∧
    Raises .dbrk s .invalidInstruction (some 2)

/-- IR with every frame byte readable: the registers from their slots, ST moved back by the frame size when frames grow
downward, FLAGS from the last Tri, the program counter from its slot. A frame byte that cannot be read changes no register: a
page that forbids it raises MemoryException of kind read there, a byte outside plain memory is refused, one that nothing has
written is a model fault (49_system.md R404, 60_exceptions.md R508, 20_memory.md R68, 70_reset_and_hazards.md R600). The order
of the reads and the moved ST are log 39, the stack direction is log 25, the regions log 16 and log 17, the byte without a
value log 5. -/
def Obligations.InterruptReturnRestores : Prop :=
  ∀ s : State,
    let up := s.settings.stackDirectionFlag
    let base := if up then s.x s.stReg - 0x63#27 else s.x s.stReg
    let tri (k : Nat) : Word := elementAt s .tri (base + BitVec.ofNat 27 (3 * k))
    (AllReadable s base 99 →
      ∃ t, exec .ir s = .next t ∧
        (∀ q : RegNo, q ≠ s.stReg → q ≠ s.flagsReg → t.x q = tri q.val) ∧
        t.x s.stReg = (if up then tri s.stReg.val else tri s.stReg.val + 0x63#27) ∧ t.flags = tri 32 ∧
          t.pc = tri s.pcReg.val ∧ SameRest s t) ∧
    (∀ m < 99, AllReadable s base m →
      let a := base + BitVec.ofNat 27 m
      (s.plain a = true → s.allows .read a = false → Raises .ir s (.memoryException .read a) (some 2)) ∧
      (s.plain a = false → exec .ir s = .refused (s.regionRefusal a)) ∧
      (s.plain a = true → s.allows .read a = true → s.mem.byteAt a = none → exec .ir s = .fault (.unwrittenByte a)))

/-- SMP and RMP: in the clean domain SMP sets the pages and RMP shows the protections of up to 13 pages at the bits that
`RMPPack` says, by default two bits a page, with Z set. Outside it `MPError` says whether the request fails, with Z clear and
its reason in rA, and what it does where it does not; it is an opaque constant of Config, so all of that is left open (log
20). C, O and S and all else are kept (49_system.md R407, R408). The packing of RMP is log 30. -/
def Obligations.ProtectionRequests : Prop :=
  ∀ (rA rB : RegNo) (v : Prot) (s : State),
    let a := s.x rA
    let n := (s.x rB).toNat
    let page := a.toNat / 1024
    let setPages (t : State) (p : Nat → Prop) : Prop :=
      (∀ k, (p k → t.prot.ofPage k = v) ∧ (¬ p k → t.prot.ofPage k = s.prot.ofPage k)) ∧
        FlagsAre s.settings.flagBits s.flags t.flags (.val true) .kept .kept .kept ∧
        (∀ q, q ≠ s.flagsReg → q ≠ s.pcReg → t.x q = s.x q) ∧ t.pc = s.pc + 3#27 ∧ SameMemory s t ∧ SameMachine s t
    (CleanRequest a (s.x rB) →
      (∃ t, exec (.smp rA rB v) s = .next t ∧ setPages t (fun k => page ≤ k ∧ k < page + n)) ∧
      (n ≤ 13 → rA ≠ s.pcReg →
        ∃ t, ∃ r : Word, exec (.rmp rA rB) s = .next t ∧ WroteWord s t rA 3 r (.val true) .kept .kept .kept ∧
          (∀ j < 27, r.getLsbD j = true ↔ ∃ k : Fin 13, k.val < n ∧
            let places := s.settings.rmpPack[(Fin.ofNat 13 (n - 1)).val][k.val]
            (places.1.val = j ∧ (s.prot.ofPage (page + k.val)).getLsbD 1 = true ∨
              places.2.val = j ∧ (s.prot.ofPage (page + k.val)).getLsbD 0 = true)) ∧
          (s.settings.rmpPack = .default →
            (∀ k < 13, r.extractLsb' (2 * k) 2 = if k < n then s.prot.ofPage (page + k) else 0#2) ∧
              r.getLsbD 26 = false))) ∧
    (¬ CleanRequest a (s.x rB) →
      match Config.mpError s.draws .set a (s.x rB) with
      | some reason =>
        if rA = s.pcReg then exec (.smp rA rB v) s = .refused .writeToR31
        else ∃ t, exec (.smp rA rB v) s = .next t ∧ WroteWord s t rA 3 reason (.val false) .kept .kept .kept
      | none => ∃ t, exec (.smp rA rB v) s = .next t ∧
        setPages t (fun k => ∃ q ∈ Config.mpPages s.draws a (s.x rB), q % 2 ^ 17 = k)) ∧
    (rA ≠ s.pcReg → ¬ CleanRequest a (s.x rB) ∨ 13 < n →
      match Config.mpError s.draws .read a (s.x rB) with
      | some reason => ∃ t, exec (.rmp rA rB) s = .next t ∧ WroteWord s t rA 3 reason (.val false) .kept .kept .kept
      | none => ∃ t, exec (.rmp rA rB) s = .next t ∧
        WroteWord s t rA 3 (Config.mpRead s.draws a (s.x rB)) (.val true) .kept .kept .kept) ∧
    (rA = s.pcReg → exec (.rmp rA rB) s = .refused .writeToR31)

/-- Only SMP changes page protections, only HT halts, only WT waits, and no instruction makes an interrupt pending or
changes the settings: for every instruction, what a next state of `exec` keeps (10_state.md R39, R40, 60_exceptions.md
R503). The run states are log 31 and log 52. -/
def Obligations.InstructionsKeepMachine : Prop :=
  ∀ (i : Instr) (s t : State), exec i s = .next t →
    ((∀ rA rB v, i ≠ .smp rA rB v) → SameProtection s t) ∧ t.settings = s.settings ∧ t.arrivals = s.arrivals ∧
      (∀ m : IntNo, s.pending.getLsbD m.val = false → t.pending.getLsbD m.val = false) ∧
      (t.runState = .halted → i = .ht ∨ s.runState = .halted) ∧
      (t.runState = .waiting → i = .wt ∨ s.runState = .waiting)
end

