-- ==== Sys2Proof/Laws/State.lean ====
section
/-! SUPPORT. One lemma for each field of each state update, so that no later proof unfolds a record update. -/

namespace Sys2Proof.Machine

variable (s : State)

/-! ## put -/

@[simp] theorem State.put_regs (r : RegNo) (v : Word) : (s.put r v).regs = s.regs.set r.val v := rfl
@[simp] theorem State.put_mem (r : RegNo) (v : Word) : (s.put r v).mem = s.mem := rfl
@[simp] theorem State.put_stored (r : RegNo) (v : Word) : (s.put r v).stored = s.stored := rfl
@[simp] theorem State.put_prot (r : RegNo) (v : Word) : (s.put r v).prot = s.prot := rfl
@[simp] theorem State.put_pending (r : RegNo) (v : Word) : (s.put r v).pending = s.pending := rfl
@[simp] theorem State.put_runState (r : RegNo) (v : Word) : (s.put r v).runState = s.runState := rfl
@[simp] theorem State.put_settings (r : RegNo) (v : Word) : (s.put r v).settings = s.settings := rfl
@[simp] theorem State.put_arrivals (r : RegNo) (v : Word) : (s.put r v).arrivals = s.arrivals := rfl
@[simp] theorem State.put_draws (r : RegNo) (v : Word) : (s.put r v).draws = s.draws := rfl
@[simp] theorem State.put_stReg (r : RegNo) (v : Word) : (s.put r v).stReg = s.stReg := rfl
@[simp] theorem State.put_raReg (r : RegNo) (v : Word) : (s.put r v).raReg = s.raReg := rfl
@[simp] theorem State.put_flagsReg (r : RegNo) (v : Word) : (s.put r v).flagsReg = s.flagsReg := rfl
@[simp] theorem State.put_pcReg (r : RegNo) (v : Word) : (s.put r v).pcReg = s.pcReg := rfl

/-! ## setFlags -/

@[simp] theorem State.setFlags_mem (v : Word) : (s.setFlags v).mem = s.mem := rfl
@[simp] theorem State.setFlags_stored (v : Word) : (s.setFlags v).stored = s.stored := rfl
@[simp] theorem State.setFlags_prot (v : Word) : (s.setFlags v).prot = s.prot := rfl
@[simp] theorem State.setFlags_pending (v : Word) : (s.setFlags v).pending = s.pending := rfl
@[simp] theorem State.setFlags_runState (v : Word) : (s.setFlags v).runState = s.runState := rfl
@[simp] theorem State.setFlags_settings (v : Word) : (s.setFlags v).settings = s.settings := rfl
@[simp] theorem State.setFlags_arrivals (v : Word) : (s.setFlags v).arrivals = s.arrivals := rfl
@[simp] theorem State.setFlags_draws (v : Word) : (s.setFlags v).draws = s.draws := rfl
@[simp] theorem State.setFlags_stReg (v : Word) : (s.setFlags v).stReg = s.stReg := rfl
@[simp] theorem State.setFlags_raReg (v : Word) : (s.setFlags v).raReg = s.raReg := rfl
@[simp] theorem State.setFlags_flagsReg (v : Word) : (s.setFlags v).flagsReg = s.flagsReg := rfl
@[simp] theorem State.setFlags_pcReg (v : Word) : (s.setFlags v).pcReg = s.pcReg := rfl

/-! ## jump -/

@[simp] theorem State.jump_mem (t : Addr) : (s.jump t).mem = s.mem := rfl
@[simp] theorem State.jump_stored (t : Addr) : (s.jump t).stored = s.stored := rfl
@[simp] theorem State.jump_prot (t : Addr) : (s.jump t).prot = s.prot := rfl
@[simp] theorem State.jump_pending (t : Addr) : (s.jump t).pending = s.pending := rfl
@[simp] theorem State.jump_runState (t : Addr) : (s.jump t).runState = s.runState := rfl
@[simp] theorem State.jump_settings (t : Addr) : (s.jump t).settings = s.settings := rfl
@[simp] theorem State.jump_arrivals (t : Addr) : (s.jump t).arrivals = s.arrivals := rfl
@[simp] theorem State.jump_draws (t : Addr) : (s.jump t).draws = s.draws := rfl
@[simp] theorem State.jump_stReg (t : Addr) : (s.jump t).stReg = s.stReg := rfl
@[simp] theorem State.jump_raReg (t : Addr) : (s.jump t).raReg = s.raReg := rfl
@[simp] theorem State.jump_flagsReg (t : Addr) : (s.jump t).flagsReg = s.flagsReg := rfl
@[simp] theorem State.jump_pcReg (t : Addr) : (s.jump t).pcReg = s.pcReg := rfl

/-! ## advance -/

@[simp] theorem State.advance_mem (len : Nat) : (s.advance len).mem = s.mem := rfl
@[simp] theorem State.advance_stored (len : Nat) : (s.advance len).stored = s.stored := rfl
@[simp] theorem State.advance_prot (len : Nat) : (s.advance len).prot = s.prot := rfl
@[simp] theorem State.advance_pending (len : Nat) : (s.advance len).pending = s.pending := rfl
@[simp] theorem State.advance_runState (len : Nat) : (s.advance len).runState = s.runState := rfl
@[simp] theorem State.advance_settings (len : Nat) : (s.advance len).settings = s.settings := rfl
@[simp] theorem State.advance_arrivals (len : Nat) : (s.advance len).arrivals = s.arrivals := rfl
@[simp] theorem State.advance_draws (len : Nat) : (s.advance len).draws = s.draws := rfl
@[simp] theorem State.advance_stReg (len : Nat) : (s.advance len).stReg = s.stReg := rfl
@[simp] theorem State.advance_raReg (len : Nat) : (s.advance len).raReg = s.raReg := rfl
@[simp] theorem State.advance_flagsReg (len : Nat) : (s.advance len).flagsReg = s.flagsReg := rfl
@[simp] theorem State.advance_pcReg (len : Nat) : (s.advance len).pcReg = s.pcReg := rfl

/-! ## updateFlags -/

@[simp] theorem State.updateFlags_mem (u : FlagUpdate) : (s.updateFlags u).mem = s.mem := rfl
@[simp] theorem State.updateFlags_stored (u : FlagUpdate) : (s.updateFlags u).stored = s.stored := rfl
@[simp] theorem State.updateFlags_prot (u : FlagUpdate) : (s.updateFlags u).prot = s.prot := rfl
@[simp] theorem State.updateFlags_pending (u : FlagUpdate) : (s.updateFlags u).pending = s.pending := rfl
@[simp] theorem State.updateFlags_runState (u : FlagUpdate) : (s.updateFlags u).runState = s.runState := rfl
@[simp] theorem State.updateFlags_settings (u : FlagUpdate) : (s.updateFlags u).settings = s.settings := rfl
@[simp] theorem State.updateFlags_arrivals (u : FlagUpdate) : (s.updateFlags u).arrivals = s.arrivals := rfl
@[simp] theorem State.updateFlags_draws (u : FlagUpdate) : (s.updateFlags u).draws = s.draws := rfl
@[simp] theorem State.updateFlags_stReg (u : FlagUpdate) : (s.updateFlags u).stReg = s.stReg := rfl
@[simp] theorem State.updateFlags_raReg (u : FlagUpdate) : (s.updateFlags u).raReg = s.raReg := rfl
@[simp] theorem State.updateFlags_flagsReg (u : FlagUpdate) : (s.updateFlags u).flagsReg = s.flagsReg := rfl
@[simp] theorem State.updateFlags_pcReg (u : FlagUpdate) : (s.updateFlags u).pcReg = s.pcReg := rfl

/-! ## drew -/

@[simp] theorem State.drew_regs (k : Nat) : (s.drew k).regs = s.regs := rfl
@[simp] theorem State.drew_mem (k : Nat) : (s.drew k).mem = s.mem := rfl
@[simp] theorem State.drew_stored (k : Nat) : (s.drew k).stored = s.stored := rfl
@[simp] theorem State.drew_prot (k : Nat) : (s.drew k).prot = s.prot := rfl
@[simp] theorem State.drew_pending (k : Nat) : (s.drew k).pending = s.pending := rfl
@[simp] theorem State.drew_runState (k : Nat) : (s.drew k).runState = s.runState := rfl
@[simp] theorem State.drew_settings (k : Nat) : (s.drew k).settings = s.settings := rfl
@[simp] theorem State.drew_arrivals (k : Nat) : (s.drew k).arrivals = s.arrivals := rfl
@[simp] theorem State.drew_draws (k : Nat) : (s.drew k).draws = s.draws + k := rfl
@[simp] theorem State.drew_stReg (k : Nat) : (s.drew k).stReg = s.stReg := rfl
@[simp] theorem State.drew_raReg (k : Nat) : (s.drew k).raReg = s.raReg := rfl
@[simp] theorem State.drew_flagsReg (k : Nat) : (s.drew k).flagsReg = s.flagsReg := rfl
@[simp] theorem State.drew_pcReg (k : Nat) : (s.drew k).pcReg = s.pcReg := rfl

/-! ## putByte -/

@[simp] theorem State.putByte_regs (a : Addr) (b : Byte) : (s.putByte a b).regs = s.regs := rfl
@[simp] theorem State.putByte_mem (a : Addr) (b : Byte) : (s.putByte a b).mem = s.mem.withByte a b := rfl
@[simp] theorem State.putByte_stored (a : Addr) (b : Byte) : (s.putByte a b).stored = s.stored.add a := rfl
@[simp] theorem State.putByte_prot (a : Addr) (b : Byte) : (s.putByte a b).prot = s.prot := rfl
@[simp] theorem State.putByte_pending (a : Addr) (b : Byte) : (s.putByte a b).pending = s.pending := rfl
@[simp] theorem State.putByte_runState (a : Addr) (b : Byte) : (s.putByte a b).runState = s.runState := rfl
@[simp] theorem State.putByte_settings (a : Addr) (b : Byte) : (s.putByte a b).settings = s.settings := rfl
@[simp] theorem State.putByte_arrivals (a : Addr) (b : Byte) : (s.putByte a b).arrivals = s.arrivals := rfl
@[simp] theorem State.putByte_draws (a : Addr) (b : Byte) : (s.putByte a b).draws = s.draws := rfl
@[simp] theorem State.putByte_stReg (a : Addr) (b : Byte) : (s.putByte a b).stReg = s.stReg := rfl
@[simp] theorem State.putByte_raReg (a : Addr) (b : Byte) : (s.putByte a b).raReg = s.raReg := rfl
@[simp] theorem State.putByte_flagsReg (a : Addr) (b : Byte) : (s.putByte a b).flagsReg = s.flagsReg := rfl
@[simp] theorem State.putByte_pcReg (a : Addr) (b : Byte) : (s.putByte a b).pcReg = s.pcReg := rfl

/-! ## becomeFaulted -/

@[simp] theorem State.becomeFaulted_regs : s.becomeFaulted.regs = s.regs := rfl
@[simp] theorem State.becomeFaulted_mem : s.becomeFaulted.mem = s.mem := rfl
@[simp] theorem State.becomeFaulted_stored : s.becomeFaulted.stored = s.stored := rfl
@[simp] theorem State.becomeFaulted_prot : s.becomeFaulted.prot = s.prot := rfl
@[simp] theorem State.becomeFaulted_pending : s.becomeFaulted.pending = s.pending := rfl
@[simp] theorem State.becomeFaulted_runState : s.becomeFaulted.runState = .faulted := rfl
@[simp] theorem State.becomeFaulted_settings : s.becomeFaulted.settings = s.settings := rfl
@[simp] theorem State.becomeFaulted_arrivals : s.becomeFaulted.arrivals = s.arrivals := rfl
@[simp] theorem State.becomeFaulted_draws : s.becomeFaulted.draws = s.draws := rfl
@[simp] theorem State.becomeFaulted_stReg : s.becomeFaulted.stReg = s.stReg := rfl
@[simp] theorem State.becomeFaulted_raReg : s.becomeFaulted.raReg = s.raReg := rfl
@[simp] theorem State.becomeFaulted_flagsReg : s.becomeFaulted.flagsReg = s.flagsReg := rfl
@[simp] theorem State.becomeFaulted_pcReg : s.becomeFaulted.pcReg = s.pcReg := rfl

/-! ## restoreFrame -/

@[simp] theorem State.restoreFrame_regs (l : List Word) : (s.restoreFrame l).regs = Vector.ofFn (s.restored l) := by
  simp only [State.restoreFrame]
@[simp] theorem State.restoreFrame_mem (l : List Word) : (s.restoreFrame l).mem = s.mem := by
  simp only [State.restoreFrame]
@[simp] theorem State.restoreFrame_stored (l : List Word) : (s.restoreFrame l).stored = s.stored := by
  simp only [State.restoreFrame]
@[simp] theorem State.restoreFrame_prot (l : List Word) : (s.restoreFrame l).prot = s.prot := by
  simp only [State.restoreFrame]
@[simp] theorem State.restoreFrame_pending (l : List Word) : (s.restoreFrame l).pending = s.pending := by
  simp only [State.restoreFrame]
@[simp] theorem State.restoreFrame_runState (l : List Word) : (s.restoreFrame l).runState = s.runState := by
  simp only [State.restoreFrame]
@[simp] theorem State.restoreFrame_settings (l : List Word) : (s.restoreFrame l).settings = s.settings := by
  simp only [State.restoreFrame]
@[simp] theorem State.restoreFrame_arrivals (l : List Word) : (s.restoreFrame l).arrivals = s.arrivals := by
  simp only [State.restoreFrame]
@[simp] theorem State.restoreFrame_draws (l : List Word) : (s.restoreFrame l).draws = s.draws := by
  simp only [State.restoreFrame]
@[simp] theorem State.restoreFrame_stReg (l : List Word) : (s.restoreFrame l).stReg = s.stReg := by
  simp only [State.restoreFrame, State.stReg]
@[simp] theorem State.restoreFrame_raReg (l : List Word) : (s.restoreFrame l).raReg = s.raReg := by
  simp only [State.restoreFrame, State.raReg]
@[simp] theorem State.restoreFrame_flagsReg (l : List Word) : (s.restoreFrame l).flagsReg = s.flagsReg := by
  simp only [State.restoreFrame, State.flagsReg]
@[simp] theorem State.restoreFrame_pcReg (l : List Word) : (s.restoreFrame l).pcReg = s.pcReg := by
  simp only [State.restoreFrame, State.pcReg]

/-! ## clearPending -/

@[simp] theorem State.clearPending_regs (n : IntNo) : (s.clearPending n).regs = s.regs := by
  unfold State.clearPending; split <;> rfl
@[simp] theorem State.clearPending_mem (n : IntNo) : (s.clearPending n).mem = s.mem := by
  unfold State.clearPending; split <;> rfl
@[simp] theorem State.clearPending_stored (n : IntNo) : (s.clearPending n).stored = s.stored := by
  unfold State.clearPending; split <;> rfl
@[simp] theorem State.clearPending_prot (n : IntNo) : (s.clearPending n).prot = s.prot := by
  unfold State.clearPending; split <;> rfl
@[simp] theorem State.clearPending_runState (n : IntNo) : (s.clearPending n).runState = s.runState := by
  unfold State.clearPending; split <;> rfl
@[simp] theorem State.clearPending_settings (n : IntNo) : (s.clearPending n).settings = s.settings := by
  unfold State.clearPending; split <;> rfl
@[simp] theorem State.clearPending_arrivals (n : IntNo) : (s.clearPending n).arrivals = s.arrivals := by
  unfold State.clearPending; split <;> rfl
@[simp] theorem State.clearPending_draws (n : IntNo) : (s.clearPending n).draws = s.draws := by
  unfold State.clearPending; split <;> rfl
@[simp] theorem State.clearPending_stReg (n : IntNo) : (s.clearPending n).stReg = s.stReg := by
  simp [State.stReg]
@[simp] theorem State.clearPending_raReg (n : IntNo) : (s.clearPending n).raReg = s.raReg := by
  simp [State.raReg]
@[simp] theorem State.clearPending_flagsReg (n : IntNo) : (s.clearPending n).flagsReg = s.flagsReg := by
  simp [State.flagsReg]
@[simp] theorem State.clearPending_pcReg (n : IntNo) : (s.clearPending n).pcReg = s.pcReg := by
  simp [State.pcReg]

/-! ## setX -/

@[simp] theorem State.setX_mem (r : RegNo) (v : Word) : (s.setX r v).mem = s.mem := by
  unfold State.setX; split <;> rfl
@[simp] theorem State.setX_stored (r : RegNo) (v : Word) : (s.setX r v).stored = s.stored := by
  unfold State.setX; split <;> rfl
@[simp] theorem State.setX_prot (r : RegNo) (v : Word) : (s.setX r v).prot = s.prot := by
  unfold State.setX; split <;> rfl
@[simp] theorem State.setX_pending (r : RegNo) (v : Word) : (s.setX r v).pending = s.pending := by
  unfold State.setX; split <;> rfl
@[simp] theorem State.setX_runState (r : RegNo) (v : Word) : (s.setX r v).runState = s.runState := by
  unfold State.setX; split <;> rfl
@[simp] theorem State.setX_settings (r : RegNo) (v : Word) : (s.setX r v).settings = s.settings := by
  unfold State.setX; split <;> rfl
@[simp] theorem State.setX_arrivals (r : RegNo) (v : Word) : (s.setX r v).arrivals = s.arrivals := by
  unfold State.setX; split <;> rfl
@[simp] theorem State.setX_draws (r : RegNo) (v : Word) : (s.setX r v).draws = s.draws := by
  unfold State.setX; split <;> rfl
@[simp] theorem State.setX_stReg (r : RegNo) (v : Word) : (s.setX r v).stReg = s.stReg := by
  simp [State.stReg]
@[simp] theorem State.setX_raReg (r : RegNo) (v : Word) : (s.setX r v).raReg = s.raReg := by
  simp [State.raReg]
@[simp] theorem State.setX_flagsReg (r : RegNo) (v : Word) : (s.setX r v).flagsReg = s.flagsReg := by
  simp [State.flagsReg]
@[simp] theorem State.setX_pcReg (r : RegNo) (v : Word) : (s.setX r v).pcReg = s.pcReg := by
  simp [State.pcReg]

/-! ## setXX -/

@[simp] theorem State.setXX_mem (r : RegNo) (v : Pair) : (s.setXX r v).mem = s.mem := by
  simp [State.setXX]
@[simp] theorem State.setXX_stored (r : RegNo) (v : Pair) : (s.setXX r v).stored = s.stored := by
  simp [State.setXX]
@[simp] theorem State.setXX_prot (r : RegNo) (v : Pair) : (s.setXX r v).prot = s.prot := by
  simp [State.setXX]
@[simp] theorem State.setXX_pending (r : RegNo) (v : Pair) : (s.setXX r v).pending = s.pending := by
  simp [State.setXX]
@[simp] theorem State.setXX_runState (r : RegNo) (v : Pair) : (s.setXX r v).runState = s.runState := by
  simp [State.setXX]
@[simp] theorem State.setXX_settings (r : RegNo) (v : Pair) : (s.setXX r v).settings = s.settings := by
  simp [State.setXX]
@[simp] theorem State.setXX_arrivals (r : RegNo) (v : Pair) : (s.setXX r v).arrivals = s.arrivals := by
  simp [State.setXX]
@[simp] theorem State.setXX_draws (r : RegNo) (v : Pair) : (s.setXX r v).draws = s.draws := by
  simp [State.setXX]
@[simp] theorem State.setXX_stReg (r : RegNo) (v : Pair) : (s.setXX r v).stReg = s.stReg := by
  simp [State.stReg]
@[simp] theorem State.setXX_raReg (r : RegNo) (v : Pair) : (s.setXX r v).raReg = s.raReg := by
  simp [State.raReg]
@[simp] theorem State.setXX_flagsReg (r : RegNo) (v : Pair) : (s.setXX r v).flagsReg = s.flagsReg := by
  simp [State.flagsReg]
@[simp] theorem State.setXX_pcReg (r : RegNo) (v : Pair) : (s.setXX r v).pcReg = s.pcReg := by
  simp [State.pcReg]

/-! ## link -/

@[simp] theorem State.link_mem (len : Nat) : (s.link len).mem = s.mem := by
  simp [State.link]
@[simp] theorem State.link_stored (len : Nat) : (s.link len).stored = s.stored := by
  simp [State.link]
@[simp] theorem State.link_prot (len : Nat) : (s.link len).prot = s.prot := by
  simp [State.link]
@[simp] theorem State.link_pending (len : Nat) : (s.link len).pending = s.pending := by
  simp [State.link]
@[simp] theorem State.link_runState (len : Nat) : (s.link len).runState = s.runState := by
  simp [State.link]
@[simp] theorem State.link_settings (len : Nat) : (s.link len).settings = s.settings := by
  simp [State.link]
@[simp] theorem State.link_arrivals (len : Nat) : (s.link len).arrivals = s.arrivals := by
  simp [State.link]
@[simp] theorem State.link_draws (len : Nat) : (s.link len).draws = s.draws := by
  simp [State.link]
@[simp] theorem State.link_stReg (len : Nat) : (s.link len).stReg = s.stReg := by
  simp [State.stReg]
@[simp] theorem State.link_raReg (len : Nat) : (s.link len).raReg = s.raReg := by
  simp [State.raReg]
@[simp] theorem State.link_flagsReg (len : Nat) : (s.link len).flagsReg = s.flagsReg := by
  simp [State.flagsReg]
@[simp] theorem State.link_pcReg (len : Nat) : (s.link len).pcReg = s.pcReg := by
  simp [State.pcReg]

/-! ## lowerST -/

@[simp] theorem State.lowerST_mem : s.lowerST.mem = s.mem := by
  unfold State.lowerST; split <;> simp
@[simp] theorem State.lowerST_stored : s.lowerST.stored = s.stored := by
  unfold State.lowerST; split <;> simp
@[simp] theorem State.lowerST_prot : s.lowerST.prot = s.prot := by
  unfold State.lowerST; split <;> simp
@[simp] theorem State.lowerST_pending : s.lowerST.pending = s.pending := by
  unfold State.lowerST; split <;> simp
@[simp] theorem State.lowerST_runState : s.lowerST.runState = s.runState := by
  unfold State.lowerST; split <;> simp
@[simp] theorem State.lowerST_settings : s.lowerST.settings = s.settings := by
  unfold State.lowerST; split <;> simp
@[simp] theorem State.lowerST_arrivals : s.lowerST.arrivals = s.arrivals := by
  unfold State.lowerST; split <;> simp
@[simp] theorem State.lowerST_draws : s.lowerST.draws = s.draws := by
  unfold State.lowerST; split <;> simp
@[simp] theorem State.lowerST_stReg : s.lowerST.stReg = s.stReg := by
  simp [State.stReg]
@[simp] theorem State.lowerST_raReg : s.lowerST.raReg = s.raReg := by
  simp [State.raReg]
@[simp] theorem State.lowerST_flagsReg : s.lowerST.flagsReg = s.flagsReg := by
  simp [State.flagsReg]
@[simp] theorem State.lowerST_pcReg : s.lowerST.pcReg = s.pcReg := by
  simp [State.pcReg]

/-! ## raiseST -/

@[simp] theorem State.raiseST_mem : s.raiseST.mem = s.mem := by
  unfold State.raiseST; split <;> simp
@[simp] theorem State.raiseST_stored : s.raiseST.stored = s.stored := by
  unfold State.raiseST; split <;> simp
@[simp] theorem State.raiseST_prot : s.raiseST.prot = s.prot := by
  unfold State.raiseST; split <;> simp
@[simp] theorem State.raiseST_pending : s.raiseST.pending = s.pending := by
  unfold State.raiseST; split <;> simp
@[simp] theorem State.raiseST_runState : s.raiseST.runState = s.runState := by
  unfold State.raiseST; split <;> simp
@[simp] theorem State.raiseST_settings : s.raiseST.settings = s.settings := by
  unfold State.raiseST; split <;> simp
@[simp] theorem State.raiseST_arrivals : s.raiseST.arrivals = s.arrivals := by
  unfold State.raiseST; split <;> simp
@[simp] theorem State.raiseST_draws : s.raiseST.draws = s.draws := by
  unfold State.raiseST; split <;> simp
@[simp] theorem State.raiseST_stReg : s.raiseST.stReg = s.stReg := by
  simp [State.stReg]
@[simp] theorem State.raiseST_raReg : s.raiseST.raReg = s.raReg := by
  simp [State.raReg]
@[simp] theorem State.raiseST_flagsReg : s.raiseST.flagsReg = s.flagsReg := by
  simp [State.flagsReg]
@[simp] theorem State.raiseST_pcReg : s.raiseST.pcReg = s.pcReg := by
  simp [State.pcReg]

/-! ## adjustBase -/

@[simp] theorem State.adjustBase_mem (z : Size) (rB : RegNo) (n : Fin 32) (m : Fin 4) (t : Word) : (s.adjustBase z rB n m t).mem = s.mem := by
  unfold State.adjustBase; repeat (first | split | simp)
@[simp] theorem State.adjustBase_stored (z : Size) (rB : RegNo) (n : Fin 32) (m : Fin 4) (t : Word) : (s.adjustBase z rB n m t).stored = s.stored := by
  unfold State.adjustBase; repeat (first | split | simp)
@[simp] theorem State.adjustBase_prot (z : Size) (rB : RegNo) (n : Fin 32) (m : Fin 4) (t : Word) : (s.adjustBase z rB n m t).prot = s.prot := by
  unfold State.adjustBase; repeat (first | split | simp)
@[simp] theorem State.adjustBase_pending (z : Size) (rB : RegNo) (n : Fin 32) (m : Fin 4) (t : Word) : (s.adjustBase z rB n m t).pending = s.pending := by
  unfold State.adjustBase; repeat (first | split | simp)
@[simp] theorem State.adjustBase_runState (z : Size) (rB : RegNo) (n : Fin 32) (m : Fin 4) (t : Word) : (s.adjustBase z rB n m t).runState = s.runState := by
  unfold State.adjustBase; repeat (first | split | simp)
@[simp] theorem State.adjustBase_settings (z : Size) (rB : RegNo) (n : Fin 32) (m : Fin 4) (t : Word) : (s.adjustBase z rB n m t).settings = s.settings := by
  unfold State.adjustBase; repeat (first | split | simp)
@[simp] theorem State.adjustBase_arrivals (z : Size) (rB : RegNo) (n : Fin 32) (m : Fin 4) (t : Word) : (s.adjustBase z rB n m t).arrivals = s.arrivals := by
  unfold State.adjustBase; repeat (first | split | simp)
@[simp] theorem State.adjustBase_draws (z : Size) (rB : RegNo) (n : Fin 32) (m : Fin 4) (t : Word) : (s.adjustBase z rB n m t).draws = s.draws := by
  unfold State.adjustBase; repeat (first | split | simp)
@[simp] theorem State.adjustBase_stReg (z : Size) (rB : RegNo) (n : Fin 32) (m : Fin 4) (t : Word) : (s.adjustBase z rB n m t).stReg = s.stReg := by
  simp [State.stReg]
@[simp] theorem State.adjustBase_raReg (z : Size) (rB : RegNo) (n : Fin 32) (m : Fin 4) (t : Word) : (s.adjustBase z rB n m t).raReg = s.raReg := by
  simp [State.raReg]
@[simp] theorem State.adjustBase_flagsReg (z : Size) (rB : RegNo) (n : Fin 32) (m : Fin 4) (t : Word) : (s.adjustBase z rB n m t).flagsReg = s.flagsReg := by
  simp [State.flagsReg]
@[simp] theorem State.adjustBase_pcReg (z : Size) (rB : RegNo) (n : Fin 32) (m : Fin 4) (t : Word) : (s.adjustBase z rB n m t).pcReg = s.pcReg := by
  simp [State.pcReg]

/-! ## enterHandler -/

@[simp] theorem State.enterHandler_mem (n : IntNo) (h : Addr) : (s.enterHandler n h).mem = s.mem := by
  simp [State.enterHandler]
@[simp] theorem State.enterHandler_stored (n : IntNo) (h : Addr) : (s.enterHandler n h).stored = s.stored := by
  simp [State.enterHandler]
@[simp] theorem State.enterHandler_prot (n : IntNo) (h : Addr) : (s.enterHandler n h).prot = s.prot := by
  simp [State.enterHandler]
@[simp] theorem State.enterHandler_runState (n : IntNo) (h : Addr) : (s.enterHandler n h).runState = .running := rfl
@[simp] theorem State.enterHandler_settings (n : IntNo) (h : Addr) : (s.enterHandler n h).settings = s.settings := by
  simp [State.enterHandler]
@[simp] theorem State.enterHandler_arrivals (n : IntNo) (h : Addr) : (s.enterHandler n h).arrivals = s.arrivals := by
  simp [State.enterHandler]
@[simp] theorem State.enterHandler_draws (n : IntNo) (h : Addr) : (s.enterHandler n h).draws = s.draws := by
  simp [State.enterHandler]
@[simp] theorem State.enterHandler_stReg (n : IntNo) (h : Addr) : (s.enterHandler n h).stReg = s.stReg := by
  simp [State.stReg]
@[simp] theorem State.enterHandler_raReg (n : IntNo) (h : Addr) : (s.enterHandler n h).raReg = s.raReg := by
  simp [State.raReg]
@[simp] theorem State.enterHandler_flagsReg (n : IntNo) (h : Addr) : (s.enterHandler n h).flagsReg = s.flagsReg := by
  simp [State.flagsReg]
@[simp] theorem State.enterHandler_pcReg (n : IntNo) (h : Addr) : (s.enterHandler n h).pcReg = s.pcReg := by
  simp [State.pcReg]

end Sys2Proof.Machine
end

