-- ==== Sys2Proof/Laws/Registers.lean ====
section
/-! SUPPORT. Reading a register, FLAGS and the program counter after a write, in every state update. -/

namespace Sys2Proof.Machine

variable (s : State)

/-! ## The four registers with a fixed role are different registers -/

@[simp] theorem State.stReg_ne_raReg : s.stReg ≠ s.raReg := by
  have h := s.settings.specialRegs.distinct
  simp only [List.nodup_cons, List.mem_cons, List.not_mem_nil, or_false, not_or] at h
  unfold State.stReg State.raReg
  grind

@[simp] theorem State.raReg_ne_stReg : s.raReg ≠ s.stReg := by
  have h := s.settings.specialRegs.distinct
  simp only [List.nodup_cons, List.mem_cons, List.not_mem_nil, or_false, not_or] at h
  unfold State.raReg State.stReg
  grind

@[simp] theorem State.stReg_ne_flagsReg : s.stReg ≠ s.flagsReg := by
  have h := s.settings.specialRegs.distinct
  simp only [List.nodup_cons, List.mem_cons, List.not_mem_nil, or_false, not_or] at h
  unfold State.stReg State.flagsReg
  grind

@[simp] theorem State.flagsReg_ne_stReg : s.flagsReg ≠ s.stReg := by
  have h := s.settings.specialRegs.distinct
  simp only [List.nodup_cons, List.mem_cons, List.not_mem_nil, or_false, not_or] at h
  unfold State.flagsReg State.stReg
  grind

@[simp] theorem State.stReg_ne_pcReg : s.stReg ≠ s.pcReg := by
  have h := s.settings.specialRegs.distinct
  simp only [List.nodup_cons, List.mem_cons, List.not_mem_nil, or_false, not_or] at h
  unfold State.stReg State.pcReg
  grind

@[simp] theorem State.pcReg_ne_stReg : s.pcReg ≠ s.stReg := by
  have h := s.settings.specialRegs.distinct
  simp only [List.nodup_cons, List.mem_cons, List.not_mem_nil, or_false, not_or] at h
  unfold State.pcReg State.stReg
  grind

@[simp] theorem State.raReg_ne_flagsReg : s.raReg ≠ s.flagsReg := by
  have h := s.settings.specialRegs.distinct
  simp only [List.nodup_cons, List.mem_cons, List.not_mem_nil, or_false, not_or] at h
  unfold State.raReg State.flagsReg
  grind

@[simp] theorem State.flagsReg_ne_raReg : s.flagsReg ≠ s.raReg := by
  have h := s.settings.specialRegs.distinct
  simp only [List.nodup_cons, List.mem_cons, List.not_mem_nil, or_false, not_or] at h
  unfold State.flagsReg State.raReg
  grind

@[simp] theorem State.raReg_ne_pcReg : s.raReg ≠ s.pcReg := by
  have h := s.settings.specialRegs.distinct
  simp only [List.nodup_cons, List.mem_cons, List.not_mem_nil, or_false, not_or] at h
  unfold State.raReg State.pcReg
  grind

@[simp] theorem State.pcReg_ne_raReg : s.pcReg ≠ s.raReg := by
  have h := s.settings.specialRegs.distinct
  simp only [List.nodup_cons, List.mem_cons, List.not_mem_nil, or_false, not_or] at h
  unfold State.pcReg State.raReg
  grind

@[simp] theorem State.flagsReg_ne_pcReg : s.flagsReg ≠ s.pcReg := by
  have h := s.settings.specialRegs.distinct
  simp only [List.nodup_cons, List.mem_cons, List.not_mem_nil, or_false, not_or] at h
  unfold State.flagsReg State.pcReg
  grind

@[simp] theorem State.pcReg_ne_flagsReg : s.pcReg ≠ s.flagsReg := by
  have h := s.settings.specialRegs.distinct
  simp only [List.nodup_cons, List.mem_cons, List.not_mem_nil, or_false, not_or] at h
  unfold State.pcReg State.flagsReg
  grind

/-! ## One register -/

/-- A register reads the same in states that agree on the registers. -/
theorem State.x_congr {s t : State} (h : t.regs = s.regs) (r : RegNo) : t.x r = s.x r := by
  simp [State.x, h]

/-- FLAGS is a register (10_state.md R26). -/
theorem State.x_flagsReg : s.x s.flagsReg = s.flags := rfl

/-- The program counter is a register (10_state.md R24). -/
theorem State.x_pcReg : s.x s.pcReg = s.pc := rfl

/-- Read after write. -/
theorem State.x_put (r q : RegNo) (v : Word) : (s.put r v).x q = if q = r then v else s.x q := by
  unfold State.x State.put
  by_cases h : q = r
  · subst h; simp
  · have : r.val ≠ q.val := fun e => h (Fin.ext e.symm)
    simp [h, this]

/-- The registers after FLAGS is written. -/
theorem State.x_setFlags (v : Word) (q : RegNo) : (s.setFlags v).x q = if q = s.flagsReg then v else s.x q :=
  s.x_put _ _ _

/-- The registers after a jump. -/
theorem State.x_jump (t : Addr) (q : RegNo) : (s.jump t).x q = if q = s.pcReg then t else s.x q :=
  s.x_put _ _ _

/-- The registers after moving on. -/
theorem State.x_advance (len : Nat) (q : RegNo) :
    (s.advance len).x q = if q = s.pcReg then s.pc + BitVec.ofNat 27 len else s.x q := s.x_put _ _ _

/-- The registers after a flag update. -/
theorem State.x_updateFlags (u : FlagUpdate) (q : RegNo) :
    (s.updateFlags u).x q = if q = s.flagsReg then u.apply s.settings.flagBits s.flags else s.x q := s.x_put _ _ _

@[simp] theorem State.x_drew (k : Nat) (q : RegNo) : (s.drew k).x q = s.x q := rfl
@[simp] theorem State.x_putByte (a : Addr) (b : Byte) (q : RegNo) : (s.putByte a b).x q = s.x q := rfl
@[simp] theorem State.x_becomeFaulted (q : RegNo) : s.becomeFaulted.x q = s.x q := rfl
@[simp] theorem State.x_clearPending (n : IntNo) (q : RegNo) : (s.clearPending n).x q = s.x q := State.x_congr (by simp) q

/-- The registers after a frame is restored. -/
theorem State.x_restoreFrame (l : List Word) (q : RegNo) : (s.restoreFrame l).x q = s.restored l q := by
  simp [State.x]

/-- Read after write: the written register gives the value, every other register and the program counter what they gave
before. -/
theorem State.x_setX (r q : RegNo) (v : Word) :
    (s.setX r v).x q = if q = r ∧ r ≠ s.pcReg then v else s.x q := by
  unfold State.setX
  by_cases h : r = s.pcReg
  · simp [h]
  · rw [if_neg h, s.x_put]
    simp [h]

/-- The written register reads the value. -/
theorem State.x_setX_same (r : RegNo) (v : Word) (h : r ≠ s.pcReg) : (s.setX r v).x r = v := by
  simp [State.x_setX, h]

/-- Every other register reads as before. -/
theorem State.x_setX_ne (r q : RegNo) (v : Word) (h : q ≠ r) : (s.setX r v).x q = s.x q := by
  simp [State.x_setX, h]

/-- A write to the program counter changes nothing. -/
theorem State.setX_at_pcReg (v : Word) : s.setX s.pcReg v = s := by simp [State.setX]

/-! ## FLAGS and the program counter -/

/-- FLAGS is the same in states that agree on the registers and the settings. -/
theorem State.flags_congr {s t : State} (h : t.regs = s.regs) (hs : t.settings = s.settings) : t.flags = s.flags := by
  simp [State.flags, State.x, State.flagsReg, h, hs]

/-- The program counter is the same in states that agree on the registers and the settings. -/
theorem State.pc_congr {s t : State} (h : t.regs = s.regs) (hs : t.settings = s.settings) : t.pc = s.pc := by
  simp [State.pc, State.x, State.pcReg, h, hs]

@[simp] theorem State.setFlags_flags (v : Word) : (s.setFlags v).flags = v := by
  simp [State.flags, State.x_setFlags]
@[simp] theorem State.setFlags_pc (v : Word) : (s.setFlags v).pc = s.pc := by
  simp [State.pc, State.x_setFlags]
@[simp] theorem State.jump_flags (t : Addr) : (s.jump t).flags = s.flags := by
  simp [State.flags, State.x_jump]
@[simp] theorem State.jump_pc (t : Addr) : (s.jump t).pc = t := by
  simp [State.pc, State.x_jump]
@[simp] theorem State.advance_flags (len : Nat) : (s.advance len).flags = s.flags := by
  simp [State.flags, State.x_advance]
@[simp] theorem State.advance_pc (len : Nat) : (s.advance len).pc = s.pc + BitVec.ofNat 27 len := by
  simp [State.pc, State.x_advance]
@[simp] theorem State.updateFlags_flags (u : FlagUpdate) : (s.updateFlags u).flags = u.apply s.settings.flagBits s.flags := by
  simp [State.flags, State.x_updateFlags]
@[simp] theorem State.updateFlags_pc (u : FlagUpdate) : (s.updateFlags u).pc = s.pc := by
  simp [State.pc, State.x_updateFlags]
@[simp] theorem State.drew_flags (k : Nat) : (s.drew k).flags = s.flags := by
  simp [State.flags, State.x_drew]
@[simp] theorem State.drew_pc (k : Nat) : (s.drew k).pc = s.pc := by
  simp [State.pc, State.x_drew]
@[simp] theorem State.putByte_flags (a : Addr) (b : Byte) : (s.putByte a b).flags = s.flags := by
  simp [State.flags, State.x_putByte]
@[simp] theorem State.putByte_pc (a : Addr) (b : Byte) : (s.putByte a b).pc = s.pc := by
  simp [State.pc, State.x_putByte]
@[simp] theorem State.becomeFaulted_flags : s.becomeFaulted.flags = s.flags := by
  simp [State.flags, State.x_becomeFaulted]
@[simp] theorem State.becomeFaulted_pc : s.becomeFaulted.pc = s.pc := by
  simp [State.pc, State.x_becomeFaulted]
@[simp] theorem State.clearPending_flags (n : IntNo) : (s.clearPending n).flags = s.flags := by
  simp [State.flags, State.x_clearPending]
@[simp] theorem State.clearPending_pc (n : IntNo) : (s.clearPending n).pc = s.pc := by
  simp [State.pc, State.x_clearPending]
@[simp] theorem State.setX_pc (r : RegNo) (v : Word) : (s.setX r v).pc = s.pc := by
  unfold State.pc
  rw [State.x_setX, if_neg]
  · simp
  · simp only [State.setX_pcReg]
    rintro ⟨h, h2⟩
    exact h2 h.symm
@[simp] theorem State.setXX_pc (r : RegNo) (v : Pair) : (s.setXX r v).pc = s.pc := by simp [State.setXX]
@[simp] theorem State.link_pc (len : Nat) : (s.link len).pc = s.pc := by simp [State.link]
@[simp] theorem State.lowerST_pc : s.lowerST.pc = s.pc := by unfold State.lowerST; split <;> simp
@[simp] theorem State.raiseST_pc : s.raiseST.pc = s.pc := by unfold State.raiseST; split <;> simp
@[simp] theorem State.adjustBase_pc (z : Size) (rB : RegNo) (n : Fin 32) (m : Fin 4) (t : Word) :
    (s.adjustBase z rB n m t).pc = s.pc := by unfold State.adjustBase; repeat (first | split | simp)
@[simp] theorem State.enterHandler_pc (n : IntNo) (h : Addr) : (s.enterHandler n h).pc = h := by
  have e : (s.enterHandler n h).pc = (((s.raiseST.clearPending n).setFlags s.entryFlags).jump h).pc := State.pc_congr rfl rfl
  rw [e, State.jump_pc]

/-- FLAGS after a register write. -/
theorem State.setX_flags (r : RegNo) (v : Word) :
    (s.setX r v).flags = if r = s.flagsReg then v else s.flags := by
  unfold State.flags
  rw [State.x_setX]
  by_cases h : r = s.flagsReg
  · subst h; simp
  · simp [h, Ne.symm h]

/-- Lowering ST keeps FLAGS. -/
@[simp] theorem State.lowerST_flags : s.lowerST.flags = s.flags := by
  unfold State.lowerST; split
  · rfl
  · simp [State.setX_flags]

/-- Raising ST keeps FLAGS. -/
@[simp] theorem State.raiseST_flags : s.raiseST.flags = s.flags := by
  unfold State.raiseST; split
  · simp [State.setX_flags]
  · rfl

@[simp] theorem State.link_flags (len : Nat) : (s.link len).flags = s.flags := by
  simp [State.link, State.setX_flags]

/-! ## Pairs -/

/-- The halves of a pair are put together again (10_state.md R23). -/
theorem pair_split (v : Pair) : v.extractLsb' 27 27 ++ v.setWidth 27 = v := by
  apply BitVec.eq_of_getLsbD_eq
  intro i hi
  simp only [BitVec.getLsbD_append, BitVec.getLsbD_extractLsb', BitVec.getLsbD_setWidth]
  by_cases h : i < 27
  · simp [h]
  · have : i - 27 < 27 := by omega
    have e : 27 + (i - 27) = i := by omega
    simp [h, this, e]

/-- The two registers of a pair are different. -/
theorem regNo_ne_succ (r : RegNo) : r ≠ r + 1 := by
  intro e
  have h := congrArg Fin.val e
  rw [Fin.val_add] at h
  have := r.isLt
  change r.val = (r.val + 1) % 32 at h
  omega

/-- Reading a register after a pair write, for a pair that does not contain the program counter. -/
theorem State.x_setXX (r q : RegNo) (v : Pair) (h1 : r ≠ s.pcReg) (h2 : r + 1 ≠ s.pcReg) :
    (s.setXX r v).x q =
      if q = r + 1 then v.setWidth 27 else if q = r then v.extractLsb' 27 27 else s.x q := by
  simp [State.setXX, State.x_setX, h1, h2]

/-- The written pair reads the value. -/
theorem State.xx_setXX (r : RegNo) (v : Pair) (h1 : r ≠ s.pcReg) (h2 : r + 1 ≠ s.pcReg) : (s.setXX r v).xx r = v := by
  unfold State.xx
  rw [s.x_setXX r _ v h1 h2, s.x_setXX r _ v h1 h2]
  simp [regNo_ne_succ r, pair_split]

end Sys2Proof.Machine
end

