-- ==== Sys2Proof/Laws/Table.lean ====
section
/-! SUPPORT. The sparse tables: read after write, and the canonical form kept by every operation. -/

namespace Sys2Proof.Machine

variable {V : Type}

/-- Keys strictly rising. -/
abbrev Rising (l : List (Nat × V)) : Prop := l.Pairwise (fun e f => e.1 < f.1)

/-- A key below every listed key is not listed. -/
theorem tableFind_below {l : List (Nat × V)} {a : Nat} (h : ∀ e ∈ l, a < e.1) : tableFind l a = none := by
  induction l with
  | nil => rfl
  | cons e l ih =>
    obtain ⟨k, v⟩ := e
    have hk : a < k := h (k, v) (by simp)
    simp only [tableFind]
    rw [if_neg (by omega)]
    exact ih fun e he => h e (by simp [he])

/-- Reading after erasing. -/
theorem tableFind_erase {l : List (Nat × V)} (hl : Rising l) (a q : Nat) :
    tableFind (tableErase l a) q = if q = a then none else tableFind l q := by
  induction l with
  | nil => simp [tableErase, tableFind]
  | cons e l ih =>
    obtain ⟨k, v⟩ := e
    rw [Rising, List.pairwise_cons] at hl
    simp only [tableErase]
    by_cases hk : a = k
    · subst hk
      rw [if_pos rfl]
      by_cases hq : q = a
      · subst hq
        rw [if_pos rfl]
        exact tableFind_below hl.1
      · rw [if_neg hq]
        simp [tableFind, hq]
    · rw [if_neg hk]
      simp only [tableFind]
      by_cases hqk : q = k
      · subst hqk; rw [if_pos rfl, if_pos rfl, if_neg (fun e => hk e.symm)]
      · rw [if_neg hqk, if_neg hqk, ih hl.2]

/-- Reading after inserting. -/
theorem tableFind_insert (l : List (Nat × V)) (a q : Nat) (b : V) :
    tableFind (tableInsert l a b) q = if q = a then some b else tableFind l q := by
  induction l with
  | nil => simp [tableInsert, tableFind]
  | cons e l ih =>
    obtain ⟨k, v⟩ := e
    simp only [tableInsert]
    by_cases h1 : a < k
    · rw [if_pos h1]; simp [tableFind]
    · rw [if_neg h1]
      by_cases h2 : a = k
      · subst h2; rw [if_pos rfl]
        simp only [tableFind]
        by_cases hq : q = a
        · simp [hq]
        · simp [hq]
      · rw [if_neg h2]
        simp only [tableFind]
        by_cases hq : q = k
        · subst hq; rw [if_pos rfl, if_pos rfl, if_neg (fun e => h2 e.symm)]
        · rw [if_neg hq, if_neg hq, ih]

/-- What is listed after erasing was listed before. -/
theorem mem_tableErase {l : List (Nat × V)} {a : Nat} {e : Nat × V} (h : e ∈ tableErase l a) : e ∈ l := by
  induction l with
  | nil => simp [tableErase] at h
  | cons f l ih =>
    obtain ⟨k, v⟩ := f
    simp only [tableErase] at h
    split at h
    · simp [h]
    · rcases List.mem_cons.1 h with h | h
      · simp [h]
      · simp [ih h]

/-- What is listed after inserting was listed before or is the new entry. -/
theorem mem_tableInsert {l : List (Nat × V)} {a : Nat} {b : V} {e : Nat × V} (h : e ∈ tableInsert l a b) :
    e = (a, b) ∨ e ∈ l := by
  induction l with
  | nil => simpa [tableInsert] using h
  | cons f l ih =>
    obtain ⟨k, v⟩ := f
    simp only [tableInsert] at h
    split at h
    · rcases List.mem_cons.1 h with h | h
      · exact .inl h
      · exact .inr h
    · split at h
      · rcases List.mem_cons.1 h with h | h
        · exact .inl h
        · exact .inr (by simp [h])
      · rcases List.mem_cons.1 h with h | h
        · exact .inr (by simp [h])
        · rcases ih h with h | h
          · exact .inl h
          · exact .inr (by simp [h])

/-- Erasing keeps the order. -/
theorem rising_tableErase {l : List (Nat × V)} (hl : Rising l) (a : Nat) : Rising (tableErase l a) := by
  induction l with
  | nil => simp [tableErase]
  | cons e l ih =>
    obtain ⟨k, v⟩ := e
    rw [Rising, List.pairwise_cons] at hl
    simp only [tableErase]
    split
    · exact hl.2
    · exact List.pairwise_cons.2 ⟨fun e he => hl.1 e (mem_tableErase he), ih hl.2⟩

/-- Inserting keeps the order. -/
theorem rising_tableInsert {l : List (Nat × V)} (hl : Rising l) (a : Nat) (b : V) : Rising (tableInsert l a b) := by
  induction l with
  | nil => simp [tableInsert]
  | cons e l ih =>
    obtain ⟨k, v⟩ := e
    have hc := hl
    rw [Rising, List.pairwise_cons] at hl
    simp only [tableInsert]
    split
    · rename_i h
      refine List.pairwise_cons.2 ⟨fun e he => ?_, hc⟩
      rcases List.mem_cons.1 he with rfl | he
      · exact h
      · exact Nat.lt_trans h (hl.1 e he)
    · split
      · rename_i h1 h2
        subst h2
        exact List.pairwise_cons.2 ⟨hl.1, hl.2⟩
      · rename_i h1 h2
        refine List.pairwise_cons.2 ⟨fun e he => ?_, ih hl.2⟩
        rcases mem_tableInsert he with rfl | he
        · change k < a; omega
        · exact hl.1 e he

variable [DecidableEq V]

/-- Reading after writing, up to the value an unlisted key has. -/
theorem tableFind_set (u : Option V) {l : List (Nat × V)} (hl : Rising l) (a q : Nat) (b : V) :
    (tableFind (tableSet u l a b) q).or u = if q = a then some b else (tableFind l q).or u := by
  unfold tableSet
  split
  · rename_i h
    rw [tableFind_erase hl]
    split
    · simp [h]
    · rfl
  · rw [tableFind_insert]
    split
    · simp
    · rfl

/-- Writing keeps the canonical form. -/
theorem tableWf_set {u : Option V} {n : Nat} {l : List (Nat × V)} (h : TableWf u n l) {a : Nat} (ha : a < n) (b : V) :
    TableWf u n (tableSet u l a b) := by
  unfold tableSet
  split
  · exact ⟨rising_tableErase h.1 a, fun e he => h.2 e (mem_tableErase he)⟩
  · rename_i hb
    refine ⟨rising_tableInsert h.1 a b, fun e he => ?_⟩
    rcases mem_tableInsert he with rfl | he
    · exact ⟨ha, hb⟩
    · exact h.2 e he

/-- What is listed after a write was listed before or is the written entry. -/
theorem mem_tableSet {u : Option V} {l : List (Nat × V)} {a : Nat} {b : V} {e : Nat × V} (h : e ∈ tableSet u l a b) :
    e = (a, b) ∨ e ∈ l := by
  unfold tableSet at h
  split at h
  · exact .inr (mem_tableErase h)
  · exact mem_tableInsert h

omit [DecidableEq V] in
/-- Reading in two parts put together. -/
theorem tableFind_append (l m : List (Nat × V)) (q : Nat) :
    tableFind (l ++ m) q = (tableFind l q).or (tableFind m q) := by
  induction l with
  | nil => simp [tableFind]
  | cons e l ih =>
    obtain ⟨k, v⟩ := e
    simp only [List.cons_append, tableFind]
    split
    · rfl
    · exact ih

omit [DecidableEq V] in
/-- Reading the entries whose keys meet a condition. -/
theorem tableFind_filter (l : List (Nat × V)) (p : Nat → Bool) (q : Nat) :
    tableFind (l.filter (fun e => p e.1)) q = if p q then tableFind l q else none := by
  induction l with
  | nil => simp [tableFind]
  | cons e l ih =>
    obtain ⟨k, v⟩ := e
    by_cases hk : p k
    · rw [List.filter_cons_of_pos (by simpa using hk)]
      simp only [tableFind]
      by_cases hq : q = k
      · subst hq; simp [hk]
      · simp [hq, ih]
    · rw [List.filter_cons_of_neg (by simpa using hk), ih]
      simp only [tableFind]
      by_cases hq : q = k
      · subst hq; simp [hk]
      · simp [hq]

omit [DecidableEq V] in
/-- Reading a block of equal entries. -/
theorem tableFind_block (a n : Nat) (b : V) (q : Nat) :
    tableFind ((List.range' a n).map (fun k => (k, b))) q = if a ≤ q ∧ q < a + n then some b else none := by
  induction n generalizing a with
  | zero =>
    have : ¬(a ≤ q ∧ q < a + 0) := by omega
    rw [if_neg this]; rfl
  | succ n ih =>
    rw [List.range'_succ, List.map_cons, tableFind, ih]
    by_cases hq : q = a
    · subst hq; simp
    · have : (a + 1 ≤ q ∧ q < a + 1 + n) ↔ (a ≤ q ∧ q < a + (n + 1)) := by omega
      rw [if_neg hq]
      simp only [this]

/-- Reading after writing a range, up to the value an unlisted key has. -/
theorem tableFind_setRange (u : Option V) (l : List (Nat × V)) (a n q : Nat) (b : V) :
    (tableFind (tableSetRange u l a n b) q).or u =
      if a ≤ q ∧ q < a + n then some b else (tableFind l q).or u := by
  unfold tableSetRange
  rw [tableFind_append, tableFind_append,
    tableFind_filter l (fun k => decide (k < a)), tableFind_filter l (fun k => decide (a + n ≤ k))]
  by_cases h1 : q < a
  · have h2 : ¬(a ≤ q ∧ q < a + n) := by omega
    have h3 : ¬(a + n ≤ q) := by omega
    have h4 : tableFind (if some b = u then [] else (List.range' a n).map (fun k => (k, b))) q = none := by
      split
      · rfl
      · rw [tableFind_block, if_neg h2]
    rw [if_neg h2, h4]
    simp [h1, h3]
  · by_cases h2 : a + n ≤ q
    · have h3 : ¬(a ≤ q ∧ q < a + n) := by omega
      have h4 : tableFind (if some b = u then [] else (List.range' a n).map (fun k => (k, b))) q = none := by
        split
        · rfl
        · rw [tableFind_block, if_neg h3]
      rw [if_neg h3, h4]
      simp [h1, h2]
    · have h3 : a ≤ q ∧ q < a + n := by omega
      rw [if_pos h3]
      simp only [h1, h2, decide_false, Bool.false_eq_true, if_false, Option.none_or, Option.or_none]
      split
      · rename_i hu; simp [tableFind, hu]
      · rw [tableFind_block, if_pos h3]; simp

/-- What is listed after writing a range was listed before or lies in the range. -/
theorem mem_tableSetRange {u : Option V} {l : List (Nat × V)} {a n : Nat} {b : V} {e : Nat × V}
    (h : e ∈ tableSetRange u l a n b) :
    (e ∈ l ∧ (e.1 < a ∨ a + n ≤ e.1)) ∨ (some b ≠ u ∧ e.2 = b ∧ a ≤ e.1 ∧ e.1 < a + n) := by
  unfold tableSetRange at h
  rcases List.mem_append.1 h with h | h
  · have := List.mem_filter.1 h
    simp at this
    exact .inl ⟨this.1, .inl this.2⟩
  · rcases List.mem_append.1 h with h | h
    · split at h
      · simp at h
      · rename_i hb
        obtain ⟨k, hk, rfl⟩ := List.mem_map.1 h
        have := List.mem_range'_1.1 hk
        exact .inr ⟨hb, rfl, by simpa using this⟩
    · have := List.mem_filter.1 h
      simp at this
      exact .inl ⟨this.1, .inr this.2⟩

/-- Writing a range keeps the canonical form. -/
theorem tableWf_setRange {u : Option V} {m : Nat} {l : List (Nat × V)} (h : TableWf u m l) {a n : Nat}
    (ha : a + n ≤ m) (b : V) : TableWf u m (tableSetRange u l a n b) := by
  refine ⟨?_, fun e he => ?_⟩
  · unfold tableSetRange
    refine List.pairwise_append.2 ⟨h.1.filter _, List.pairwise_append.2 ⟨?_, h.1.filter _, ?_⟩, ?_⟩
    · split
      · exact List.Pairwise.nil
      · rw [List.pairwise_map]
        exact List.pairwise_lt_range'
    · intro e he f hf
      have hf2 := (List.mem_filter.1 hf).2
      split at he
      · simp at he
      · obtain ⟨k, hk, rfl⟩ := List.mem_map.1 he
        have := List.mem_range'_1.1 hk
        simp at hf2
        change k < f.1
        omega
    · intro e he f hf
      have he2 := (List.mem_filter.1 he).2
      simp at he2
      rcases List.mem_append.1 hf with hf | hf
      · split at hf
        · simp at hf
        · obtain ⟨k, hk, rfl⟩ := List.mem_map.1 hf
          have := List.mem_range'_1.1 hk
          change e.1 < k
          omega
      · have hf2 := (List.mem_filter.1 hf).2
        simp at hf2
        omega
  · rcases mem_tableSetRange he with ⟨h1, -⟩ | ⟨hb, h2, h3, h4⟩
    · exact h.2 e h1
    · exact ⟨by omega, by rw [h2]; exact hb⟩

end Sys2Proof.Machine
end

