-- ==== Sys2Proof/Laws/Memory.lean ====
section
/-! SUPPORT. Memory: read after write, the canonical form kept by every memory operation, and what each access can answer. -/

namespace Sys2Proof.Machine

/-! ## One byte -/

/-- Read after write: the written byte reads the value, every other byte what it read before. -/
theorem Memory.byteAt_withByte (m : Memory) (a q : Addr) (b : Byte) :
    (m.withByte a b).byteAt q = if q = a then some b else m.byteAt q := by
  have h : (tableSet unlistedByte m a.toNat b) = tableInsert m a.toNat b := by
    simp [tableSet, unlistedByte]
  unfold Memory.byteAt Memory.withByte
  rw [h, tableFind_insert]
  by_cases hq : q = a
  · simp [hq]
  · have : q.toNat ≠ a.toNat := fun e => hq (BitVec.eq_of_toNat_eq e)
    simp [hq, this]

/-- A write keeps the canonical form. -/
theorem Memory.wf_withByte {m : Memory} (h : m.wf) (a : Addr) (b : Byte) : (m.withByte a b).wf :=
  tableWf_set h a.isLt b

/-- What is listed after a write was listed before or is the written byte. -/
theorem Memory.mem_withByte {m : Memory} {a : Addr} {b : Byte} {e : Nat × Byte} (h : e ∈ m.withByte a b) :
    e = (a.toNat, b) ∨ e ∈ m := mem_tableSet h

/-! ## The set of stored addresses -/

/-- An address is in the set after one is added if it is that one or was there. -/
theorem AddrSet.has_add (l : AddrSet) (a q : Addr) : (l.add a).has q = (decide (q = a) || l.has q) := by
  unfold AddrSet.has AddrSet.add
  rw [tableFind_insert]
  by_cases hq : q = a
  · simp [hq]
  · have : q.toNat ≠ a.toNat := fun e => hq (BitVec.eq_of_toNat_eq e)
    simp [hq, this]

/-- Adding an address keeps the canonical form. -/
theorem AddrSet.wf_add {l : AddrSet} (h : l.wf) (a : Addr) : (l.add a).wf :=
  tableWf_set (u := none) h a.isLt ()

/-! ## Page protection -/

/-- Reading a page's protection after a range of pages is set. -/
theorem ProtTable.ofPage_withRange (t : ProtTable) (p n q : Nat) (v : Prot) :
    (t.withRange p n v).ofPage q = if p ≤ q ∧ q < p + n then v else t.ofPage q := by
  have h := tableFind_setRange (some unlistedProt) t p n q v
  unfold ProtTable.ofPage ProtTable.withRange
  have e : ∀ o : Option Prot, o.getD unlistedProt = (o.or (some unlistedProt)).getD 0#2 := by
    intro o; cases o <;> rfl
  rw [e, h, e]
  split <;> rfl

/-- Setting a range inside the address space keeps the canonical form. -/
theorem ProtTable.wf_withRange {t : ProtTable} (h : t.wf) {p n : Nat} (hn : p + n ≤ pageCount) (v : Prot) :
    (t.withRange p n v).wf := tableWf_setRange h hn v

/-! ## Accesses: when they complete -/

theorem State.readByte_of_readable {s : State} {k : AccessKind} {a : Addr} {b : Byte} (h : s.Readable k a b) :
    s.readByte k a = .ok b := by
  obtain ⟨h1, h2, h3, h4⟩ := h
  simp [State.readByte, h1, h2, h3, h4]

/-- What reading a byte can answer. -/
theorem State.readByte_ok_iff {s : State} {k : AccessKind} {a : Addr} {b : Byte} :
    s.readByte k a = .ok b ↔ s.Readable k a b := by
  refine ⟨fun h => ?_, State.readByte_of_readable⟩
  unfold State.readByte at h
  split at h
  · split at h
    · split at h
      · cases h
      · split at h
        · rename_i h1 h2 h3 _ c h4
          cases h
          exact ⟨h1, h2, by simpa using h3, h4⟩
        · cases h
    · cases h
  · cases h

theorem State.writeByte_of_writable {s : State} {a : Addr} (h : s.Writable a) (b : Byte) :
    s.writeByte a b = .done (s.putByte a b) := by
  simp [State.writeByte, h.1, h.2]

/-- What writing a byte can answer. -/
theorem State.writeByte_cases (s : State) (a : Addr) (b : Byte) :
    (s.Writable a ∧ s.writeByte a b = .done (s.putByte a b)) ∨ s.writeByte a b = .denied .write a s ∨
      s.writeByte a b = .refused (s.regionRefusal a) := by
  unfold State.writeByte State.Writable
  split
  · rename_i h1
    split
    · rename_i h2; exact .inl ⟨⟨h1, h2⟩, rfl⟩
    · exact .inr (.inl rfl)
  · exact .inr (.inr rfl)

/-! ## Sequences of writes -/

/-- Bytes stored at ascending addresses, with no check. -/
def State.putBytes (s : State) (a : Addr) : List Byte → State
  | [] => s
  | b :: l => State.putBytes (s.putByte a b) (a + 1) l

/-- Storing bytes changes memory and the set of stored addresses only. -/
theorem State.putBytes_eq (s : State) (a : Addr) (l : List Byte) :
    s.putBytes a l = { s with mem := (s.putBytes a l).mem, stored := (s.putBytes a l).stored } := by
  induction l generalizing s a with
  | nil => rfl
  | cons b l ih => exact ih (s.putByte a b) (a + 1)

@[simp] theorem State.putBytes_regs (s : State) (a : Addr) (l : List Byte) : (s.putBytes a l).regs = s.regs := by
  rw [State.putBytes_eq]
@[simp] theorem State.putBytes_prot (s : State) (a : Addr) (l : List Byte) : (s.putBytes a l).prot = s.prot := by
  rw [State.putBytes_eq]
@[simp] theorem State.putBytes_pending (s : State) (a : Addr) (l : List Byte) : (s.putBytes a l).pending = s.pending := by
  rw [State.putBytes_eq]
@[simp] theorem State.putBytes_runState (s : State) (a : Addr) (l : List Byte) : (s.putBytes a l).runState = s.runState := by
  rw [State.putBytes_eq]
@[simp] theorem State.putBytes_settings (s : State) (a : Addr) (l : List Byte) : (s.putBytes a l).settings = s.settings := by
  rw [State.putBytes_eq]
@[simp] theorem State.putBytes_arrivals (s : State) (a : Addr) (l : List Byte) : (s.putBytes a l).arrivals = s.arrivals := by
  rw [State.putBytes_eq]
@[simp] theorem State.putBytes_draws (s : State) (a : Addr) (l : List Byte) : (s.putBytes a l).draws = s.draws := by
  rw [State.putBytes_eq]

/-- Which addresses are marked as stored after a list is stored. -/
theorem State.has_putBytes (s : State) (a q : Addr) (l : List Byte) (hl : l.length ≤ 2 ^ 27) :
    (s.putBytes a l).stored.has q = (decide ((q - a).toNat < l.length) || s.stored.has q) := by
  induction l generalizing s a with
  | nil => simp [State.putBytes]
  | cons b l ih =>
    rw [List.length_cons] at hl
    simp only [State.putBytes]
    rw [ih (s.putByte a b) (a + 1) (by omega), State.putByte_stored, AddrSet.has_add, ← Bool.or_assoc]
    congr 1
    rw [← Bool.decide_or, decide_eq_decide, List.length_cons]
    have h1 : (q - a).toNat = 0 ↔ q = a := by constructor <;> intro h <;> bv_omega
    have h2 : q ≠ a → (q - (a + 1)).toNat = (q - a).toNat - 1 := by intro h; bv_omega
    have h3 : q = a → (q - (a + 1)).toNat = 2 ^ 27 - 1 := by intro h; bv_omega
    by_cases hq : q = a
    · simp [hq]
    · rw [h2 hq]; simp only [hq, or_false]; have := h1.not.2 hq; omega

/-- The bytes after storing a list: byte k of the list at address a + k. -/
theorem State.byteAt_putBytes (s : State) (a q : Addr) (l : List Byte) (hl : l.length ≤ 2 ^ 27) :
    (s.putBytes a l).mem.byteAt q =
      if h : (q - a).toNat < l.length then some l[(q - a).toNat] else s.mem.byteAt q := by
  induction l generalizing s a with
  | nil => rfl
  | cons b l ih =>
    rw [List.length_cons] at hl
    simp only [State.putBytes]
    rw [ih (s.putByte a b) (a + 1) (by omega)]
    simp only [State.putByte_mem, Memory.byteAt_withByte]
    by_cases hq : q = a
    · subst hq
      have h1 : (q - (q + 1)).toNat = 2 ^ 27 - 1 := by
        bv_omega
      have h2 : (q - q).toNat = 0 := by simp
      rw [dif_neg (by rw [h1]; omega), if_pos rfl, dif_pos (by rw [h2]; simp)]
      simp
    · have h0 : (q - a).toNat ≠ 0 := by
        intro e
        apply hq
        have : q - a = 0#27 := BitVec.eq_of_toNat_eq e
        have h := congrArg (· + a) this
        simpa using h
      have h1 : (q - (a + 1)).toNat = (q - a).toNat - 1 := by
        bv_omega
      by_cases h2 : (q - a).toNat < l.length + 1
      · rw [dif_pos (by rw [h1]; omega), dif_pos (by simpa using h2)]
        congr 1
        have : ∀ i j (hi : i < (b :: l).length) (hj : j < l.length), i = j + 1 → (b :: l)[i] = l[j] := by
          intro i j hi hj e; subst e; rfl
        exact (this _ _ _ _ (by rw [h1]; omega)).symm
      · rw [dif_neg (by rw [h1]; omega), if_neg hq, dif_neg (by simpa using h2)]

/-- A sequence of writes completes when every byte can be written. -/
theorem State.writeBytes_of_writable {s : State} {a : Addr} {l : List Byte}
    (h : ∀ k < l.length, s.Writable (a + BitVec.ofNat 27 k)) : s.writeBytes a l = .done (s.putBytes a l) := by
  induction l generalizing s a with
  | nil => rfl
  | cons b l ih =>
    have h0 : s.Writable a := by simpa using h 0 (by simp)
    simp only [State.writeBytes, State.writeByte_of_writable h0, Run.andThen, State.putBytes]
    refine ih fun k hk => ?_
    have := h (k + 1) (by simpa using hk)
    have e : a + 1 + BitVec.ofNat 27 k = a + BitVec.ofNat 27 (k + 1) := by
      rw [BitVec.add_assoc]; congr 1; apply BitVec.eq_of_toNat_eq; simp [Nat.add_comm]
    rw [e]
    exact this

/-- What a sequence of writes answers when it completes. -/
theorem State.writeBytes_done {s t : State} {a : Addr} {l : List Byte} (h : s.writeBytes a l = .done t) :
    t = s.putBytes a l := by
  induction l generalizing s a with
  | nil => simpa [State.writeBytes, State.putBytes, eq_comm] using h
  | cons b l ih =>
    simp only [State.writeBytes] at h
    rcases s.writeByte_cases a b with ⟨-, e⟩ | e | e <;> rw [e] at h <;> simp only [Run.andThen] at h
    · exact ih h
    · cases h
    · cases h

/-! ## The canonical form, kept by every memory operation -/

/-- Memory and the set of stored addresses are in canonical form, and memory lists only plain memory. -/
def State.MemOk (s : State) : Prop :=
  s.mem.wf ∧ (∀ e ∈ s.mem, isPlain s.settings.memMap (BitVec.ofNat 27 e.1) = true) ∧ s.stored.wf

/-- A state holds the same as another but for memory, and memory stays sound. -/
def MemStep (s t : State) : Prop := t = { s with mem := t.mem, stored := t.stored } ∧ (s.MemOk → t.MemOk)

theorem MemStep.refl (s : State) : MemStep s s := ⟨rfl, id⟩

theorem MemStep.trans {s t u : State} (h1 : MemStep s t) (h2 : MemStep t u) : MemStep s u :=
  ⟨by rw [h2.1, h1.1], fun h => h2.2 (h1.2 h)⟩

/-- Memory grown by accesses leaves everything else. -/
theorem MemStep.same {s t : State} (h : MemStep s t) :
    t.regs = s.regs ∧ t.prot = s.prot ∧ t.pending = s.pending ∧ t.runState = s.runState ∧ t.settings = s.settings ∧
      t.arrivals = s.arrivals ∧ t.draws = s.draws := by
  rw [h.1]
  exact ⟨rfl, rfl, rfl, rfl, rfl, rfl, rfl⟩

/-- Every state a run carries differs from the start in memory only, and keeps it sound. -/
def Run.MemSteps (s : State) (x : Run) : Prop :=
  match x with
  | .done t => MemStep s t
  | .denied _ _ t => MemStep s t
  | .stopped _ => True
  | .refused _ => True

theorem Run.memSteps_andThen {s : State} {x : Run} {f : State → Run} (hx : x.MemSteps s)
    (hf : ∀ t, MemStep s t → (f t).MemSteps s) : (x.andThen f).MemSteps s := by
  cases x with
  | done t => exact hf t hx
  | denied k a t => exact hx
  | stopped e => trivial
  | refused r => trivial

theorem Run.memSteps_of {s t : State} {x : Run} (h : MemStep s t) (hx : x.MemSteps t) : x.MemSteps s := by
  cases x with
  | done u => exact h.trans hx
  | denied k a u => exact MemStep.trans h hx
  | stopped e => trivial
  | refused r => trivial

theorem State.memStep_putByte (s : State) (a : Addr) (b : Byte) (h : s.plain a = true) : MemStep s (s.putByte a b) := by
  refine ⟨rfl, fun hs => ⟨Memory.wf_withByte hs.1 a b, fun e he => ?_, AddrSet.wf_add hs.2.2 a⟩⟩
  rcases Memory.mem_withByte he with rfl | he
  · simpa [State.plain] using h
  · exact hs.2.1 e he

theorem State.memSteps_writeByte (s : State) (a : Addr) (b : Byte) : (s.writeByte a b).MemSteps s := by
  rcases s.writeByte_cases a b with ⟨h, e⟩ | e | e <;> rw [e]
  · exact s.memStep_putByte a b h.1
  · exact MemStep.refl s
  · trivial

theorem State.memSteps_writeBytes (s : State) (a : Addr) (l : List Byte) : (s.writeBytes a l).MemSteps s := by
  induction l generalizing s a with
  | nil => exact MemStep.refl s
  | cons b l ih =>
    exact Run.memSteps_andThen (s.memSteps_writeByte a b) fun t ht => Run.memSteps_of ht (ih t (a + 1))

theorem State.memSteps_writeValue (s : State) (z : Size) (a : Addr) (v : Word) : (s.writeValue z a v).MemSteps s :=
  s.memSteps_writeBytes a _

theorem State.memSteps_writeTris (s : State) (a : Addr) (l : List Word) : (s.writeTris a l).MemSteps s := by
  induction l generalizing s a with
  | nil => exact MemStep.refl s
  | cons v l ih =>
    exact Run.memSteps_andThen (s.memSteps_writeValue .tri a v) fun t ht => Run.memSteps_of ht (ih t (a + 3))

theorem State.memSteps_storeLoop (z : Size) (n : Nat) (r : RegNo) (a : Addr) (s : State) :
    (State.storeLoop z n r a s).MemSteps s := by
  induction n generalizing s r a with
  | zero => exact MemStep.refl s
  | succ n ih =>
    exact Run.memSteps_andThen (s.memSteps_writeValue z a (s.x r)) fun t ht => Run.memSteps_of ht (ih _ _ t)

theorem State.memSteps_copyLoop (n : Nat) (d c : Addr) (s : State) : (State.copyLoop n d c s).MemSteps s := by
  induction n generalizing s d c with
  | zero => exact MemStep.refl s
  | succ n ih =>
    simp only [State.copyLoop]
    split
    · exact Run.memSteps_andThen (s.memSteps_writeByte d _) fun t ht => Run.memSteps_of ht (ih _ _ t)
    · exact MemStep.refl s
    · trivial
    · trivial

/-! ## Sequences of reads -/

/-- A sequence of reads completes when every byte can be read. -/
theorem State.readBytes_of_readable {s : State} {k : AccessKind} {n : Nat} {a : Addr} {l : List Byte}
    (hl : l.length = n) (h : ∀ i (hi : i < l.length), s.Readable k (a + BitVec.ofNat 27 i) l[i]) :
    s.readBytes k n a = .ok l := by
  induction n generalizing a l with
  | zero => rw [List.length_eq_zero_iff] at hl; subst hl; rfl
  | succ n ih =>
    match l, hl with
    | b :: l, hl =>
      have h0 : s.Readable k a b := by
        have := h 0 (by simp)
        rwa [show a + BitVec.ofNat 27 0 = a by simp] at this
      simp only [State.readBytes, State.readByte_of_readable h0, Access.bind]
      rw [ih (a := a + 1) (l := l) (by simpa using hl)]
      intro i hi
      have := h (i + 1) (by simpa using hi)
      have e : a + 1 + BitVec.ofNat 27 i = a + BitVec.ofNat 27 (i + 1) := by
        rw [BitVec.add_assoc]; congr 1; apply BitVec.eq_of_toNat_eq; simp [Nat.add_comm]
      rw [e]
      simpa using this

/-- What a sequence of reads answers when it completes. -/
theorem State.readBytes_ok {s : State} {k : AccessKind} {n : Nat} {a : Addr} {l : List Byte}
    (h : s.readBytes k n a = .ok l) :
    l.length = n ∧ ∀ i (hi : i < l.length), s.Readable k (a + BitVec.ofNat 27 i) l[i] := by
  induction n generalizing a l with
  | zero => cases h; simp
  | succ n ih =>
    simp only [State.readBytes] at h
    cases hb : s.readByte k a with
    | ok b =>
      rw [hb] at h
      simp only [Access.bind] at h
      cases hr : s.readBytes k n (a + 1) with
      | ok m =>
        rw [hr] at h
        simp only [Access.ok.injEq] at h
        subst h
        obtain ⟨h1, h2⟩ := ih hr
        refine ⟨by simp [h1], fun i hi => ?_⟩
        cases i with
        | zero => simpa using State.readByte_ok_iff.1 hb
        | succ i =>
          have := h2 i (by simpa using hi)
          have e : a + BitVec.ofNat 27 (i + 1) = a + 1 + BitVec.ofNat 27 i := by
            rw [BitVec.add_assoc]; congr 1; apply BitVec.eq_of_toNat_eq; simp [Nat.add_comm]
          rw [e]
          simpa using this
      | denied k a => rw [hr] at h; cases h
      | stopped f => rw [hr] at h; cases h
      | refused r => rw [hr] at h; cases h
    | denied k a => rw [hb] at h; cases h
    | stopped f => rw [hb] at h; cases h
    | refused r => rw [hb] at h; cases h

/-! ## Byte order: what is stored is read back (20_memory.md R62 to R64) -/

/-- The bytes of a size. -/
@[simp] theorem Size.split_length (z : Size) (v : Word) : (z.split v).length = z.bytes := by cases z <;> rfl

/-- Joining the bytes a value is stored as gives the value's low bits: 9, 18 or all 27. -/
theorem Size.join_split (z : Size) (v : Word) :
    z.join (z.split v) = (v.extractLsb' 0 (9 * z.bytes)).setWidth 27 := by
  apply BitVec.eq_of_getLsbD_eq
  intro i hi
  cases z
  · simp only [Size.join, Size.split, Size.bytes]
  · simp only [Size.join, Size.split, Size.bytes, BitVec.getLsbD_setWidth, BitVec.getLsbD_append,
      BitVec.getLsbD_extractLsb']
    by_cases h : i < 9
    · simp [h, show i < 18 by omega]
    · by_cases h2 : i < 18
      · simp [h, h2, show i - 9 < 9 by omega, show 9 + (i - 9) = i by omega]
      · simp [h, h2, show ¬ (i - 9 < 9) by omega]
  · simp only [Size.join, Size.split, Size.bytes, BitVec.getLsbD_setWidth, BitVec.getLsbD_append,
      BitVec.getLsbD_extractLsb']
    by_cases h : i < 9
    · simp [h, hi]
    · by_cases h2 : i < 18
      · simp [h, hi, show i - 9 < 9 by omega, show 9 + (i - 9) = i by omega]
      · simp [h, hi, show ¬ (i - 9 < 9) by omega, show i - 9 - 9 < 9 by omega, show 18 + (i - 9 - 9) = i by omega]

end Sys2Proof.Machine
end

