-- ==== Sys2Proof/Laws/Access.lean ====
section
/-! SUPPORT. The loops over memory as one sequence of bytes: what loads, stores and frames read and write. -/

namespace Sys2Proof.Machine

/-- Addresses add up. -/
theorem addr_add (a : Addr) (i j : Nat) : a + BitVec.ofNat 27 i + BitVec.ofNat 27 j = a + BitVec.ofNat 27 (i + j) := by
  rw [BitVec.add_assoc]
  congr 1
  apply BitVec.eq_of_toNat_eq
  simp

/-- The registers read the same after bytes are stored. -/
@[simp] theorem State.x_putBytes (s : State) (a : Addr) (l : List Byte) (r : RegNo) : (s.putBytes a l).x r = s.x r := by
  rw [State.putBytes_eq]; rfl

/-- What an address is, is the same after bytes are stored. -/
@[simp] theorem State.plain_putBytes (s : State) (a q : Addr) (l : List Byte) : (s.putBytes a l).plain q = s.plain q := by
  simp [State.plain]

/-- What a page allows is the same after bytes are stored. -/
@[simp] theorem State.allows_putBytes (s : State) (k : AccessKind) (a q : Addr) (l : List Byte) :
    (s.putBytes a l).allows k q = s.allows k q := by
  simp [State.allows, State.protAt]

/-- A byte can be written after others have been exactly when it could before. -/
theorem State.writable_putBytes (s : State) (a q : Addr) (l : List Byte) : (s.putBytes a l).Writable q ↔ s.Writable q := by
  simp [State.Writable]

/-- Storing a list and then another. -/
theorem State.putBytes_append (s : State) (a : Addr) (l m : List Byte) :
    s.putBytes a (l ++ m) = (s.putBytes a l).putBytes (a + BitVec.ofNat 27 l.length) m := by
  induction l generalizing s a with
  | nil => simp [State.putBytes]
  | cons b l ih =>
    simp only [List.cons_append, State.putBytes, List.length_cons]
    rw [ih, show (a + 1 : Addr) = a + BitVec.ofNat 27 1 from rfl, addr_add, Nat.add_comm 1]

/-- Go on twice. -/
theorem Run.andThen_assoc (x : Run) (f g : State → Run) :
    (x.andThen f).andThen g = x.andThen fun s => (f s).andThen g := by cases x <;> rfl

/-- Go on with the end. -/
theorem Run.andThen_done (x : Run) : x.andThen .done = x := by cases x <;> rfl

/-- Writing a list and then another. -/
theorem State.writeBytes_append (s : State) (a : Addr) (l m : List Byte) :
    s.writeBytes a (l ++ m) = (s.writeBytes a l).andThen fun t => t.writeBytes (a + BitVec.ofNat 27 l.length) m := by
  induction l generalizing s a with
  | nil => simp [State.writeBytes, Run.andThen]
  | cons b l ih =>
    simp only [List.cons_append, State.writeBytes, List.length_cons, Run.andThen_assoc]
    congr 1
    funext t
    rw [ih, show (a + 1 : Addr) = a + BitVec.ofNat 27 1 from rfl, addr_add, Nat.add_comm 1]

/-- A sequence of writes that meets a byte it cannot write: the bytes before it are stored, then that byte's own answer. -/
theorem State.writeBytes_stop {s : State} {a : Addr} {l : List Byte} {m : Nat} (hm : m < l.length)
    (h : ∀ k < m, s.Writable (a + BitVec.ofNat 27 k)) (hw : ¬ s.Writable (a + BitVec.ofNat 27 m)) :
    ∃ b, s.writeBytes a l = (s.putBytes a (l.take m)).writeByte (a + BitVec.ofNat 27 m) b := by
  have hl : (l.take m).length = m := by simp; omega
  obtain ⟨b, r, e⟩ := List.exists_cons_of_ne_nil (show l.drop m ≠ [] by simp; omega)
  refine ⟨b, ?_⟩
  conv_lhs => rw [← List.take_append_drop m l, e]
  rw [State.writeBytes_append, State.writeBytes_of_writable (by rw [hl]; exact h), hl]
  simp only [Run.andThen, State.writeBytes]
  rcases (s.putBytes a (l.take m)).writeByte_cases (a + BitVec.ofNat 27 m) b with ⟨h1, -⟩ | h1 | h1
  · exact absurd ((State.writable_putBytes ..).1 h1) hw
  · rw [h1]
  · rw [h1]

/-- A sequence of writes that meets a byte its page does not let it write: the bytes before it are stored. -/
theorem State.writeBytes_denied {s : State} {a : Addr} {l : List Byte} {m : Nat} (hm : m < l.length)
    (h : ∀ k < m, s.Writable (a + BitVec.ofNat 27 k)) (hp : s.plain (a + BitVec.ofNat 27 m) = true)
    (hd : s.allows .write (a + BitVec.ofNat 27 m) = false) :
    s.writeBytes a l = .denied .write (a + BitVec.ofNat 27 m) (s.putBytes a (l.take m)) := by
  obtain ⟨b, e⟩ := State.writeBytes_stop hm h (by simp [State.Writable, hd])
  rw [e]
  simp [State.writeByte, hp, hd]

/-- A sequence of writes that meets a byte outside plain memory. -/
theorem State.writeBytes_region {s : State} {a : Addr} {l : List Byte} {m : Nat} (hm : m < l.length)
    (h : ∀ k < m, s.Writable (a + BitVec.ofNat 27 k)) (hp : s.plain (a + BitVec.ofNat 27 m) = false) :
    s.writeBytes a l = .refused (s.regionRefusal (a + BitVec.ofNat 27 m)) := by
  obtain ⟨b, e⟩ := State.writeBytes_stop hm h (by simp [State.Writable, hp])
  rw [e]
  simp [State.writeByte, hp, State.regionRefusal]

/-! ## Stores -/

/-- The bytes that `n` registers from `r` on are stored as. -/
def State.storeBytes (s : State) (z : Size) : Nat → RegNo → List Byte
  | 0, _ => []
  | n + 1, r => z.split (s.x r) ++ s.storeBytes z n (r + 1)

@[simp] theorem State.storeBytes_length (s : State) (z : Size) (n : Nat) (r : RegNo) :
    (s.storeBytes z n r).length = n * z.bytes := by
  induction n generalizing r with
  | zero => simp [State.storeBytes]
  | succ n ih => simp [State.storeBytes, ih, Nat.succ_mul, Nat.add_comm]

/-- The stored bytes depend on the registers only. -/
theorem State.storeBytes_congr {s t : State} (h : ∀ r, t.x r = s.x r) (z : Size) (n : Nat) (r : RegNo) :
    t.storeBytes z n r = s.storeBytes z n r := by
  induction n generalizing r with
  | zero => rfl
  | succ n ih => simp [State.storeBytes, ih, h]

/-- The loop of a store writes one sequence of bytes. -/
theorem State.storeLoop_eq (z : Size) (n : Nat) (r : RegNo) (a : Addr) (s : State) :
    State.storeLoop z n r a s = s.writeBytes a (s.storeBytes z n r) := by
  induction n generalizing r a s with
  | zero => rfl
  | succ n ih =>
    simp only [State.storeLoop, State.storeBytes, State.writeBytes_append, State.writeValue, Size.split_length]
    cases hw : s.writeBytes a (z.split (s.x r)) with
    | done t =>
      simp only [Run.andThen]
      have ht := State.writeBytes_done hw
      rw [ih, State.storeBytes_congr (s := s) (t := t) (fun q => by rw [ht]; simp)]
    | denied k b t => rfl
    | stopped f => rfl
    | refused e => rfl

/-- Byte j of the value of the k-th register. -/
theorem State.storeBytes_getElem (s : State) (z : Size) (n : Nat) (r : RegNo) (k j : Nat) (hk : k < n) (hj : j < z.bytes)
    (h : k * z.bytes + j < (s.storeBytes z n r).length) :
    (s.storeBytes z n r)[k * z.bytes + j] = (z.split (s.x (r + Fin.ofNat 32 k)))[j]'(by simpa using hj) := by
  induction n generalizing r k with
  | zero => omega
  | succ n ih =>
    cases k with
    | zero =>
      have e : r + Fin.ofNat 32 0 = r := by simp
      simp only [State.storeBytes, Nat.zero_mul, Nat.zero_add, e]
      rw [List.getElem_append_left (by simpa using hj)]
    | succ k =>
      have h2 : k * z.bytes + j < (s.storeBytes z n (r + 1)).length := by
        simp only [State.storeBytes_length] at h ⊢
        rw [Nat.succ_mul, Nat.succ_mul] at h
        omega
      have e : r + Fin.ofNat 32 (k + 1) = r + 1 + Fin.ofNat 32 k := by
        apply Fin.ext
        simp [Fin.val_add]
        omega
      simp only [State.storeBytes]
      rw [List.getElem_append_right (by simp [Nat.succ_mul]; omega)]
      simp only [Size.split_length, e]
      rw [← ih (r + 1) k (by omega) h2]
      congr 1
      rw [Nat.succ_mul]; omega

/-! ## Frames -/

/-- The bytes of a list of Tris. -/
def triBytes (l : List Word) : List Byte := l.flatMap Size.tri.split

/-- Writing Tris writes one sequence of bytes. -/
theorem State.writeTris_eq (s : State) (a : Addr) (l : List Word) : s.writeTris a l = s.writeBytes a (triBytes l) := by
  induction l generalizing s a with
  | nil => rfl
  | cons v l ih =>
    simp only [State.writeTris, triBytes, List.flatMap_cons, State.writeBytes_append, State.writeValue, Size.split_length]
    congr 1
    funext t
    exact ih t _

@[simp] theorem triBytes_length (l : List Word) : (triBytes l).length = 3 * l.length := by
  induction l with
  | nil => rfl
  | cons v l ih =>
    simp only [triBytes, List.flatMap_cons, List.length_append, List.length_cons] at ih ⊢
    rw [ih, Size.split_length]
    simp only [Size.bytes]
    omega

/-- Byte j of the k-th Tri. -/
theorem triBytes_getElem (l : List Word) (k j : Nat) (hk : k < l.length) (hj : j < 3)
    (h : 3 * k + j < (triBytes l).length) : (triBytes l)[3 * k + j] = (Size.tri.split l[k])[j]'(by rw [Size.split_length]; exact hj) := by
  induction l generalizing k with
  | nil => simp at hk
  | cons v l ih =>
    simp only [triBytes, List.flatMap_cons]
    cases k with
    | zero =>
      rw [List.getElem_append_left (by rw [Size.split_length]; simp only [Size.bytes]; omega)]
      simp
    | succ k =>
      rw [List.getElem_append_right (by rw [Size.split_length]; simp only [Size.bytes]; omega)]
      have h2 : 3 * k + j < (triBytes l).length := by
        rw [triBytes_length] at h ⊢
        simp only [List.length_cons] at h
        omega
      have := ih k (by simpa using hk) h2
      rw [List.getElem_cons_succ, ← this]
      simp only [triBytes, Size.split_length, Size.bytes]
      congr 1
      omega

/-! ## Reads of one value -/

/-- The bytes of memory from an address, 0 where none is held. -/
def State.bytesAt (s : State) (a : Addr) (n : Nat) : List Byte :=
  (List.range n).map fun k => (s.mem.byteAt (a + BitVec.ofNat 27 k)).getD 0#9

/-- A value is read when its bytes can be. -/
theorem State.readValue_of_readable {s : State} {z : Size} {a : Addr}
    (h : ∀ k < z.bytes, ∃ b, s.Readable .read (a + BitVec.ofNat 27 k) b) :
    s.readValue z a = .ok (z.join (s.bytesAt a z.bytes)) := by
  unfold State.readValue
  rw [State.readBytes_of_readable (l := s.bytesAt a z.bytes) (by simp [State.bytesAt])]
  · rfl
  · intro i hi
    have hi' : i < z.bytes := by simpa [State.bytesAt] using hi
    obtain ⟨b, hb⟩ := h i hi'
    have : (s.bytesAt a z.bytes)[i] = b := by simp [State.bytesAt, hb.2.2.2]
    rw [this]
    exact hb

/-- Tris are read when their bytes can be. -/
theorem State.readTris_of_readable {s : State} {n : Nat} {a : Addr}
    (h : ∀ k < 3 * n, ∃ b, s.Readable .read (a + BitVec.ofNat 27 k) b) :
    s.readTris n a = .ok ((List.range n).map fun k => Size.tri.join (s.bytesAt (a + BitVec.ofNat 27 (3 * k)) 3)) := by
  induction n generalizing a with
  | zero => rfl
  | succ n ih =>
    simp only [State.readTris]
    rw [State.readValue_of_readable (z := .tri) fun k hk => h k (by simp only [Size.bytes] at hk; omega)]
    simp only [Access.bind]
    rw [ih (a := a + 3) fun k hk => by
      rw [show (a + 3 : Addr) = a + BitVec.ofNat 27 3 from rfl, addr_add]
      exact h (3 + k) (by omega)]
    simp only
    rw [List.range_succ_eq_map, List.map_cons, List.map_map]
    congr 2
    · simp [Size.bytes]
    · apply List.map_congr_left
      intro k _
      simp only [Function.comp]
      rw [show (a + 3 : Addr) = a + BitVec.ofNat 27 3 from rfl, addr_add]
      congr 4
      omega

end Sys2Proof.Machine
end

