-- ==== Sys2Proof/Laws/Bytes.lean ====
section
/-! SUPPORT. Instruction bytes in memory order and the word they hold: the two directions agree, in every `FetchOrder`. -/

namespace Sys2Proof

variable (o : FetchOrder)

/-- The four places of the last four groups are different. -/
theorem FetchOrder.places_ne : o.six2 ≠ o.six3 ∧ o.six2 ≠ o.six4 ∧ o.six2 ≠ o.six5 ∧ o.six3 ≠ o.six4 ∧ o.six3 ≠ o.six5 ∧
    o.six4 ≠ o.six5 := by
  have h := o.distinct
  simp only [List.nodup_cons, List.mem_cons, List.not_mem_nil, or_false, not_or] at h
  tauto

/-- A group is found where it was put. -/
theorem groupAt_pick (a b c d : Byte) (j : Fin 4) :
    groupAt o (pickByte a b c d o.six2) (pickByte a b c d o.six3) (pickByte a b c d o.six4) (pickByte a b c d o.six5) j =
      pickByte a b c d j := by
  obtain ⟨h1, h2, h3, h4, h5, h6⟩ := o.places_ne
  unfold groupAt
  split
  · subst_vars; rfl
  · split
    · subst_vars; rfl
    · split
      · subst_vars; rfl
      · have : o.six5 = j := by omega
        rw [this]

/-- A byte is put where it was found. -/
theorem pick_groupAt (a b c d : Byte) :
    pickByte (groupAt o a b c d 0) (groupAt o a b c d 1) (groupAt o a b c d 2) (groupAt o a b c d 3) =
      groupAt o a b c d := by
  funext j
  fin_cases j <;> rfl

/-- The byte at each place. -/
theorem groupAt_six (a b c d : Byte) :
    groupAt o a b c d o.six2 = a ∧ groupAt o a b c d o.six3 = b ∧ groupAt o a b c d o.six4 = c ∧
      groupAt o a b c d o.six5 = d := by
  obtain ⟨h1, h2, h3, h4, h5, h6⟩ := o.places_ne
  simp [groupAt, h1, h2, h3, h4, h5, h6]

/-- Groups put in memory order are put back. -/
theorem fromMemory_toMemory (l : List Byte) : fromMemory o (toMemory o l) = l := by
  rcases l with _ | ⟨a, _ | ⟨b, _ | ⟨c, _ | ⟨d, _ | ⟨e, _ | ⟨f, _ | ⟨g, l⟩⟩⟩⟩⟩⟩⟩ <;>
    cases h1 : o.swapFirst <;> cases h2 : o.swapFour <;>
    simp [fromMemory, toMemory, twoBytes, h1, h2, groupAt_pick] <;> simp [pickByte]

/-- Bytes put in the order of the groups are put back. -/
theorem toMemory_fromMemory (l : List Byte) : toMemory o (fromMemory o l) = l := by
  rcases l with _ | ⟨a, _ | ⟨b, _ | ⟨c, _ | ⟨d, _ | ⟨e, _ | ⟨f, _ | ⟨g, l⟩⟩⟩⟩⟩⟩⟩ <;>
    cases h1 : o.swapFirst <;> cases h2 : o.swapFour <;>
    simp [fromMemory, toMemory, twoBytes, h1, h2, pick_groupAt, groupAt_six]

/-- Putting bytes in the order of the groups keeps their number. -/
@[simp] theorem fromMemory_length (l : List Byte) : (fromMemory o l).length = l.length := by
  rcases l with _ | ⟨a, _ | ⟨b, _ | ⟨c, _ | ⟨d, _ | ⟨e, _ | ⟨f, _ | ⟨g, l⟩⟩⟩⟩⟩⟩⟩ <;>
    cases h1 : o.swapFirst <;> cases h2 : o.swapFour <;> simp [fromMemory, twoBytes, h1, h2]

/-- Putting groups in memory order keeps their number. -/
@[simp] theorem toMemory_length (l : List Byte) : (toMemory o l).length = l.length := by
  rcases l with _ | ⟨a, _ | ⟨b, _ | ⟨c, _ | ⟨d, _ | ⟨e, _ | ⟨f, _ | ⟨g, l⟩⟩⟩⟩⟩⟩⟩ <;>
    cases h1 : o.swapFirst <;> cases h2 : o.swapFour <;> simp [toMemory, twoBytes, h1, h2]

/-- The groups of a word. -/
@[simp] theorem splitGroups_length (n w : Nat) : (splitGroups n w).length = n := by
  induction n with
  | zero => rfl
  | succ n ih => simp [splitGroups, ih]

/-- Joining goes on from what is joined so far. -/
theorem joinGroups_append (l m : List Byte) : joinGroups (l ++ m) = joinGroups l * 2 ^ (9 * m.length) + joinGroups m := by
  have key : ∀ (m : List Byte) (x : Nat),
      m.foldl (fun w b => w * 2 ^ 9 + b.toNat) x = x * 2 ^ (9 * m.length) + joinGroups m := by
    intro m
    induction m with
    | nil => intro x; simp [joinGroups]
    | cons b m ih =>
      intro x
      simp only [joinGroups, List.foldl_cons, List.length_cons] at ih ⊢
      rw [ih, ih (0 * 2 ^ 9 + b.toNat), Nat.mul_add 9, Nat.pow_add]
      ring
  unfold joinGroups
  rw [List.foldl_append, key]
  rfl

/-- The groups of a word make it again. -/
theorem joinGroups_splitGroups (n w : Nat) : joinGroups (splitGroups n w) = w % 2 ^ (9 * n) := by
  induction n with
  | zero => simp [splitGroups, joinGroups, Nat.mod_one]
  | succ n ih =>
    rw [splitGroups, ← List.singleton_append, joinGroups_append, ih, splitGroups_length, Nat.mul_add 9, Nat.pow_add]
    simp only [joinGroups, List.foldl_cons, List.foldl_nil, BitVec.toNat_ofNat, Nat.zero_mul, Nat.zero_add]
    rw [Nat.mod_mul, Nat.mul_comm, Nat.add_comm]

/-- The word of a list of groups gives them back. -/
theorem splitGroups_joinGroups (l : List Byte) : splitGroups l.length (joinGroups l) = l := by
  have split_mod : ∀ n w, splitGroups n (w % 2 ^ (9 * n)) = splitGroups n w := by
    intro n
    induction n with
    | zero => intro w; rfl
    | succ n ih =>
      intro w
      simp only [splitGroups]
      congr 1
      · apply BitVec.eq_of_toNat_eq
        simp only [BitVec.toNat_ofNat]
        rw [Nat.mul_add 9, Nat.pow_add, Nat.mod_mul_right_div_self, Nat.mod_mod]
      · rw [← ih, ← ih w, Nat.mod_mod_of_dvd _ (pow_dvd_pow 2 (by omega))]
  induction l with
  | nil => rfl
  | cons b l ih =>
    rw [← List.singleton_append, joinGroups_append, List.length_append, Nat.add_comm, List.length_singleton, splitGroups]
    have hj : joinGroups l < 2 ^ (9 * l.length) := by
      have := joinGroups_splitGroups l.length (joinGroups l)
      rw [ih] at this
      rw [this]
      exact Nat.mod_lt _ (by positivity)
    congr 1
    · apply BitVec.eq_of_toNat_eq
      rw [BitVec.toNat_ofNat, Nat.mul_comm, Nat.mul_add_div (by positivity), Nat.div_eq_of_lt hj]
      simp [joinGroups, b.isLt]
    · rw [← split_mod, Nat.mul_comm, Nat.mul_add_mod, split_mod, ih]
      rfl

/-- The word of an instruction gives its bytes back. -/
theorem bytesOfWord_wordOfBytes (l : List Byte) : bytesOfWord o l.length (wordOfBytes o l) = l := by
  unfold bytesOfWord wordOfBytes
  rw [← fromMemory_length o l, splitGroups_joinGroups, toMemory_fromMemory]

/-- The bytes of a word give it back. -/
theorem wordOfBytes_bytesOfWord (n w : Nat) (hw : w < 2 ^ (9 * n)) : wordOfBytes o (bytesOfWord o n w) = w := by
  unfold bytesOfWord wordOfBytes
  rw [fromMemory_toMemory, joinGroups_splitGroups, Nat.mod_eq_of_lt hw]

/-- A word of n bytes has n bytes. -/
@[simp] theorem bytesOfWord_length (n w : Nat) : (bytesOfWord o n w).length = n := by simp [bytesOfWord]

/-- The first two bytes of a word hold its first 18 figure bits, whatever follows: they lie in the same two bytes in every
length. -/
theorem first_bytesOfWord (n w : Nat) (rest : List Byte) (h : n = 2 ∨ n = 3 ∨ n = 4 ∨ n = 6) (hw : w < 2 ^ (9 * n)) :
    wordOfBytes o ((bytesOfWord o n w ++ rest).take 2) = w / 2 ^ (9 * (n - 2)) := by
  have e : (bytesOfWord o n w ++ rest).take 2 = bytesOfWord o 2 (w / 2 ^ (9 * (n - 2))) := by
    rcases h with rfl | rfl | rfl | rfl <;> cases h1 : o.swapFirst <;>
      simp [bytesOfWord, toMemory, splitGroups, twoBytes, h1, Nat.div_div_eq_div_mul]
  rw [e]
  apply wordOfBytes_bytesOfWord
  rw [Nat.div_lt_iff_lt_mul (by positivity), ← Nat.pow_add]
  rcases h with rfl | rfl | rfl | rfl <;> simpa using hw

end Sys2Proof
end

