-- ==== Sys2Proof/Laws/Flags.lean ====
section
/-! SUPPORT. What a flag update does to each bit of FLAGS. -/

namespace Sys2Proof.Machine

/-- The bits of a word with one bit replaced. -/
theorem setBit_getLsbD (w : Word) (i j : Nat) (b : Bool) (hi : i < 27) :
    (setBit w i b).getLsbD j = if j = i then b else w.getLsbD j := by
  unfold setBit
  by_cases hj : j = i
  · subst hj; cases b <;> simp [hi]
  · cases b
    · by_cases h27 : j < 27
      · simp [hj, h27]
      · simp [hj, BitVec.getLsbD_of_ge _ _ (Nat.le_of_not_lt h27)]
    · simp [BitVec.getLsbD_twoPow, hj, Ne.symm hj]

/-- The bits of a word with one of its low four bits replaced. -/
theorem setBit_low (w : Word) (i : Fin 4) (j : Nat) (b : Bool) :
    (setBit w i.val b).getLsbD j = if j = i.val then b else w.getLsbD j := setBit_getLsbD _ _ _ _ (by omega)

/-! ## The four flags lie in different bits (`FlagBits`) -/

variable (p : FlagBits)

@[simp] theorem FlagBits.z_ne_c : p.z.val ≠ p.c.val := by
  have h := p.distinct
  simp only [List.nodup_cons, List.mem_cons, List.not_mem_nil, or_false, not_or, Fin.ext_iff] at h
  omega

@[simp] theorem FlagBits.z_ne_o : p.z.val ≠ p.o.val := by
  have h := p.distinct
  simp only [List.nodup_cons, List.mem_cons, List.not_mem_nil, or_false, not_or, Fin.ext_iff] at h
  omega

@[simp] theorem FlagBits.z_ne_s : p.z.val ≠ p.s.val := by
  have h := p.distinct
  simp only [List.nodup_cons, List.mem_cons, List.not_mem_nil, or_false, not_or, Fin.ext_iff] at h
  omega

@[simp] theorem FlagBits.c_ne_z : p.c.val ≠ p.z.val := by
  have h := p.distinct
  simp only [List.nodup_cons, List.mem_cons, List.not_mem_nil, or_false, not_or, Fin.ext_iff] at h
  omega

@[simp] theorem FlagBits.c_ne_o : p.c.val ≠ p.o.val := by
  have h := p.distinct
  simp only [List.nodup_cons, List.mem_cons, List.not_mem_nil, or_false, not_or, Fin.ext_iff] at h
  omega

@[simp] theorem FlagBits.c_ne_s : p.c.val ≠ p.s.val := by
  have h := p.distinct
  simp only [List.nodup_cons, List.mem_cons, List.not_mem_nil, or_false, not_or, Fin.ext_iff] at h
  omega

@[simp] theorem FlagBits.o_ne_z : p.o.val ≠ p.z.val := by
  have h := p.distinct
  simp only [List.nodup_cons, List.mem_cons, List.not_mem_nil, or_false, not_or, Fin.ext_iff] at h
  omega

@[simp] theorem FlagBits.o_ne_c : p.o.val ≠ p.c.val := by
  have h := p.distinct
  simp only [List.nodup_cons, List.mem_cons, List.not_mem_nil, or_false, not_or, Fin.ext_iff] at h
  omega

@[simp] theorem FlagBits.o_ne_s : p.o.val ≠ p.s.val := by
  have h := p.distinct
  simp only [List.nodup_cons, List.mem_cons, List.not_mem_nil, or_false, not_or, Fin.ext_iff] at h
  omega

@[simp] theorem FlagBits.s_ne_z : p.s.val ≠ p.z.val := by
  have h := p.distinct
  simp only [List.nodup_cons, List.mem_cons, List.not_mem_nil, or_false, not_or, Fin.ext_iff] at h
  omega

@[simp] theorem FlagBits.s_ne_c : p.s.val ≠ p.c.val := by
  have h := p.distinct
  simp only [List.nodup_cons, List.mem_cons, List.not_mem_nil, or_false, not_or, Fin.ext_iff] at h
  omega

@[simp] theorem FlagBits.s_ne_o : p.s.val ≠ p.o.val := by
  have h := p.distinct
  simp only [List.nodup_cons, List.mem_cons, List.not_mem_nil, or_false, not_or, Fin.ext_iff] at h
  omega

/-! ## The flags after each update -/

@[simp] theorem FlagUpdate.all_z (z c o s : Bool) (f : Word) :
    ((FlagUpdate.all z c o s).apply p f).getLsbD p.z.val = z := by
  simp [FlagUpdate.apply, setBit_low]

@[simp] theorem FlagUpdate.all_c (z c o s : Bool) (f : Word) :
    ((FlagUpdate.all z c o s).apply p f).getLsbD p.c.val = c := by
  simp [FlagUpdate.apply, setBit_low]

@[simp] theorem FlagUpdate.all_o (z c o s : Bool) (f : Word) :
    ((FlagUpdate.all z c o s).apply p f).getLsbD p.o.val = o := by
  simp [FlagUpdate.apply, setBit_low]

@[simp] theorem FlagUpdate.all_s (z c o s : Bool) (f : Word) :
    ((FlagUpdate.all z c o s).apply p f).getLsbD p.s.val = s := by
  simp [FlagUpdate.apply, setBit_low]

@[simp] theorem FlagUpdate.zeroSigned_z (z s : Bool) (f : Word) :
    ((FlagUpdate.zeroSigned z s).apply p f).getLsbD p.z.val = z := by
  simp [FlagUpdate.apply, setBit_low]

@[simp] theorem FlagUpdate.zeroSigned_c (z s : Bool) (f : Word) :
    ((FlagUpdate.zeroSigned z s).apply p f).getLsbD p.c.val = f.getLsbD p.c.val := by
  simp [FlagUpdate.apply, setBit_low]

@[simp] theorem FlagUpdate.zeroSigned_o (z s : Bool) (f : Word) :
    ((FlagUpdate.zeroSigned z s).apply p f).getLsbD p.o.val = f.getLsbD p.o.val := by
  simp [FlagUpdate.apply, setBit_low]

@[simp] theorem FlagUpdate.zeroSigned_s (z s : Bool) (f : Word) :
    ((FlagUpdate.zeroSigned z s).apply p f).getLsbD p.s.val = s := by
  simp [FlagUpdate.apply, setBit_low]

@[simp] theorem FlagUpdate.zero_z (z : Bool) (f : Word) :
    ((FlagUpdate.zero z).apply p f).getLsbD p.z.val = z := by
  simp [FlagUpdate.apply, setBit_low]

@[simp] theorem FlagUpdate.zero_c (z : Bool) (f : Word) :
    ((FlagUpdate.zero z).apply p f).getLsbD p.c.val = f.getLsbD p.c.val := by
  simp [FlagUpdate.apply, setBit_low]

@[simp] theorem FlagUpdate.zero_o (z : Bool) (f : Word) :
    ((FlagUpdate.zero z).apply p f).getLsbD p.o.val = f.getLsbD p.o.val := by
  simp [FlagUpdate.apply, setBit_low]

@[simp] theorem FlagUpdate.zero_s (z : Bool) (f : Word) :
    ((FlagUpdate.zero z).apply p f).getLsbD p.s.val = f.getLsbD p.s.val := by
  simp [FlagUpdate.apply, setBit_low]

@[simp] theorem FlagUpdate.apply_keep (f : Word) : FlagUpdate.keep.apply p f = f := rfl

/-- No flag update changes bits 4 to 26 (10_state.md R27). -/
theorem FlagUpdate.apply_high (u : FlagUpdate) (f : Word) (j : Nat) (h : 4 ≤ j) :
    (u.apply p f).getLsbD j = f.getLsbD j := by
  have hz : j ≠ p.z.val := by omega
  have hc : j ≠ p.c.val := by omega
  have ho : j ≠ p.o.val := by omega
  have hs : j ≠ p.s.val := by omega
  cases u <;> simp [FlagUpdate.apply, setBit_low, hz, hc, ho, hs]

@[simp] theorem whenUF_false (u : FlagUpdate) : whenUF false u = .keep := rfl

@[simp] theorem whenUF_true (u : FlagUpdate) : whenUF true u = u := rfl

end Sys2Proof.Machine
end

