-- ==== Sys2Proof/Laws/Operands.lean ====
section
/-! SUPPORT. The arithmetic of two operands as exact numbers, and the registers after a result is written back. -/

namespace Sys2Proof.Machine

/-! ## Immediates -/

/-- Zero extension keeps the unsigned value. -/
theorem zext_eq {m n : Nat} (i : BitVec m) : zext n i = BitVec.ofNat n i.toNat := by
  apply BitVec.eq_of_toNat_eq; simp [zext]

/-- Sign extension keeps the signed value, as a word. -/
theorem sext_eq {m n : Nat} (i : BitVec m) : sext n i = BitVec.ofInt n i.toInt := by
  simp [sext, BitVec.signExtend]

/-- Zero extension keeps the unsigned value, as a number. -/
theorem zext_toNat {m n : Nat} (h : m ≤ n) (i : BitVec m) : (zext n i).toNat = i.toNat := by
  simp [zext, BitVec.toNat_setWidth]
  exact Nat.mod_eq_of_lt (Nat.lt_of_lt_of_le i.isLt (Nat.pow_le_pow_right (by decide) h))

/-- Sign extension keeps the signed value, as a number. -/
theorem sext_toInt {m n : Nat} (h : m ≤ n) (i : BitVec m) : (sext n i).toInt = i.toInt := by
  simp [sext, BitVec.toInt_signExtend_of_le h]

/-- A zero-extended immediate is zero only if the immediate is. -/
theorem zext_ne_zero {m n : Nat} (h : m ≤ n) (i : BitVec m) (hi : i ≠ 0) : zext n i ≠ 0 := by
  intro e; apply hi; apply BitVec.eq_of_toNat_eq; have := congrArg BitVec.toNat e; rw [zext_toNat h] at this; simpa using this

/-- A sign-extended immediate is zero only if the immediate is. -/
theorem sext_ne_zero {m n : Nat} (h : m ≤ n) (i : BitVec m) (hi : i ≠ 0) : sext n i ≠ 0 := by
  intro e; apply hi; apply BitVec.eq_of_toInt_eq; have := congrArg BitVec.toInt e; rw [sext_toInt h] at this; simpa using this

/-! ## Add and subtract -/

/-- The sum is the exact sum modulo 2^n. -/
theorem addResult_eq {n : Nat} (a b : BitVec n) (c : Bool) : addResult a b c = BitVec.ofNat n (a.toNat + b.toNat + c.toNat) := by
  apply BitVec.eq_of_toNat_eq
  simp only [addResult, addWide, BitVec.toNat_setWidth, BitVec.toNat_add, BitVec.toNat_ofBool, BitVec.toNat_ofNat]
  rw [Nat.mod_mod_of_dvd _ (pow_dvd_pow 2 (Nat.le_succ n))]
  rw [Nat.add_mod, Nat.mod_mod_of_dvd _ (pow_dvd_pow 2 (Nat.le_succ n)), Nat.add_mod (a.toNat % _),Nat.mod_mod_of_dvd _ (pow_dvd_pow 2 (Nat.le_succ n)),Nat.mod_mod_of_dvd _ (pow_dvd_pow 2 (Nat.le_succ n)),Nat.mod_mod_of_dvd _ (pow_dvd_pow 2 (Nat.le_succ n))]
  simp [Nat.add_mod]

/-- The carry says that the exact sum does not fit. -/
theorem addWide_carry {n : Nat} (hn : 0 < n) (a b : BitVec n) (c : Bool) : (addWide a b c).getLsbD n = decide (2 ^ n ≤ a.toNat + b.toNat + c.toNat) := by
  have ha := a.isLt; have hb := b.isLt
  have hc : c.toNat ≤ 1 := by cases c <;> simp
  have h2 : 2 ^ (n+1) = 2 ^ n + 2 ^ n := by rw [pow_succ]; omega
  have h3 : 2 ≤ 2 ^ n := by calc 2 = 2^1 := rfl
                              _ ≤ 2^n := Nat.pow_le_pow_right (by decide) hn
  have e : (addWide a b c).toNat = a.toNat + b.toNat + c.toNat := by
    simp only [addWide, BitVec.toNat_setWidth, BitVec.toNat_add, BitVec.toNat_ofBool]
    rw [Nat.mod_eq_of_lt (a := a.toNat) (by omega), Nat.mod_eq_of_lt (a := b.toNat) (by omega), Nat.mod_eq_of_lt (a := c.toNat) (by omega)]
    rw [Nat.mod_eq_of_lt (a := a.toNat + b.toNat) (by omega), Nat.mod_eq_of_lt (by omega)]
  have : (addWide a b c).getLsbD n = (addWide a b c).msb := by simp [BitVec.msb_eq_getLsbD_last]
  rw [this, BitVec.msb_eq_decide, e]; simp

/-- The wide difference is the exact difference. -/
theorem subWide_eq {n : Nat} (a b : BitVec n) (c : Bool) : subWide a b c = BitVec.ofInt (n+1) ((a.toNat : Int) - b.toNat - c.toNat) := by
  apply BitVec.eq_of_toInt_eq
  simp only [subWide, BitVec.toInt_sub, BitVec.toInt_ofInt, BitVec.toInt_setWidth, BitVec.toNat_ofBool]
  simp [Int.sub_bmod]

/-- The difference is the exact difference modulo 2^n. -/
theorem subResult_eq {n : Nat} (a b : BitVec n) (c : Bool) : subResult a b c = BitVec.ofInt n ((a.toNat : Int) - b.toNat - c.toNat) := by
  rw [subResult, subWide_eq]
  apply BitVec.eq_of_toNat_eq
  simp only [BitVec.toNat_setWidth, BitVec.toNat_ofInt]
  generalize ((a.toNat : Int) - b.toNat - c.toNat) = z
  have hd : ((2 ^ n : Nat) : Int) ∣ ((2 ^ (n+1) : Nat) : Int) := Int.natCast_dvd_natCast.2 (pow_dvd_pow 2 (Nat.le_succ n))
  rw [← Int.emod_emod_of_dvd z hd]
  have h1 : 0 ≤ z % ((2 ^ (n+1) : Nat) : Int) := Int.emod_nonneg _ (by exact_mod_cast (Nat.two_pow_pos (n+1)).ne')
  generalize z % ((2 ^ (n+1) : Nat) : Int) = y at h1
  obtain ⟨k, rfl⟩ := Int.eq_ofNat_of_zero_le h1
  norm_cast

/-- The borrow says that the exact difference is negative. -/
theorem subWide_borrow {n : Nat} (hn : 0 < n) (a b : BitVec n) (c : Bool) : (subWide a b c).getLsbD n = decide (a.toNat < b.toNat + c.toNat) := by
  have ha := a.isLt; have hb := b.isLt
  have hc : c.toNat ≤ 1 := by cases c <;> simp
  have h2 : 2 ^ (n+1) = 2 ^ n + 2 ^ n := by rw [pow_succ]; omega
  have h3 : 2 ≤ 2 ^ n := by calc 2 = 2^1 := rfl
                              _ ≤ 2^n := Nat.pow_le_pow_right (by decide) hn
  have e : (subWide a b c).toNat = if a.toNat < b.toNat + c.toNat then 2^(n+1) + a.toNat - b.toNat - c.toNat else a.toNat - b.toNat - c.toNat := by
    rw [subWide_eq, BitVec.toNat_ofInt]
    split
    · rename_i h
      have : ((a.toNat : Int) - b.toNat - c.toNat) % ((2 ^ (n+1) : Nat) : Int) = ((2^(n+1) + a.toNat - b.toNat - c.toNat : Nat) : Int) := by
        rw [← Int.add_emod_right]
        rw [Int.emod_eq_of_lt]
        · omega
        · omega
        · omega
      rw [this]; rfl
    · have : ((a.toNat : Int) - b.toNat - c.toNat) % ((2 ^ (n+1) : Nat) : Int) = ((a.toNat - b.toNat - c.toNat : Nat) : Int) := by
        rw [Int.emod_eq_of_lt]
        · omega
        · omega
        · omega
      rw [this]; rfl
  have : (subWide a b c).getLsbD n = (subWide a b c).msb := by simp [BitVec.msb_eq_getLsbD_last]
  rw [this, BitVec.msb_eq_decide, e]
  simp only [Nat.add_sub_cancel, decide_eq_decide]
  split <;> omega

/-- Bit n - 1 of the wide difference is the sign of the difference. -/
theorem subWide_sign {n : Nat} (hn : 0 < n) (a b : BitVec n) (c : Bool) : (subWide a b c).getLsbD (n-1) = (subResult a b c).msb := by
  have : n - 1 < n := by omega
  rw [BitVec.msb_eq_getLsbD_last, subResult, BitVec.getLsbD_setWidth]; simp [this]

/-! ## Remainder -/

/-- The remainder of the rounded quotient. -/
theorem sub_tdiv_mul_eq_tmod (a b : Int) : a - a.tdiv b * b = a.tmod b := by
  have := Int.tmod_add_mul_tdiv a b; rw [mul_comm] at this; omega

/-! ## Shifts and rotates -/

/-- A left shift multiplies. -/
theorem shiftLeft_eq {n : Nat} (a : BitVec n) (k : Nat) : shiftLeft a k = if k < n then BitVec.ofNat n (a.toNat * 2^k) else 0#n := by
  unfold shiftLeft; split
  · apply BitVec.eq_of_toNat_eq; simp [Nat.shiftLeft_eq]
  · rfl

/-- A right shift divides. -/
theorem shiftRight_eq {n : Nat} (a : BitVec n) (k : Nat) : shiftRight a k = if k < n then BitVec.ofNat n (a.toNat / 2^k) else 0#n := by
  unfold shiftRight; split
  · apply BitVec.eq_of_toNat_eq; simp [Nat.shiftRight_eq_div_pow]
    rw [Nat.mod_eq_of_lt]; exact Nat.lt_of_le_of_lt (Nat.div_le_self _ _) a.isLt
  · rfl

/-- An arithmetic right shift divides, rounding down. -/
theorem shiftArith_eq {n : Nat} (a : BitVec n) (k : Nat) : shiftArith a k = BitVec.ofInt n (Int.fdiv a.toInt (2 ^ min k n)) := by
  unfold shiftArith
  apply BitVec.eq_of_toInt_eq
  rw [BitVec.toInt_sshiftRight, Int.shiftRight_eq_div_pow, BitVec.toInt_ofInt, Int.fdiv_eq_ediv_of_nonneg _ (by positivity)]
  have e : a.toInt / ((2 ^ min k n : Nat) : Int) = (a.sshiftRight (min k n)).toInt := by
    rw [BitVec.toInt_sshiftRight, Int.shiftRight_eq_div_pow]
  push_cast at e ⊢
  rw [e]
  have := BitVec.toInt_bmod_cancel (a.sshiftRight (min k n))
  exact this.symm

/-- Where each bit of a right rotate comes from. -/
theorem rotRight_bit {n : Nat} (hn : 0 < n) (a : BitVec n) (k i : Nat) (hi : i < n) : (rotRight a k).getLsbD i = a.getLsbD ((i + k) % n) := by
  have hk := Nat.mod_lt k hn
  have e : (i + k) % n = (i + k % n) % n := by simp
  unfold rotRight
  rw [e]
  generalize k % n = m at *
  simp only [BitVec.getLsbD_or, BitVec.getLsbD_ushiftRight, BitVec.getLsbD_shiftLeft]
  by_cases h : i + m < n
  · rw [Nat.mod_eq_of_lt h]
    have h1 : i < n - m := by omega
    simp [h1, hi, Nat.add_comm]
  · have h1 : (i + m) % n = i + m - n := by rw [Nat.mod_eq_sub_mod (by omega), Nat.mod_eq_of_lt (by omega)]
    have h2 : ¬ i < n - m := by omega
    have h3 : i - (n - m) = i + m - n := by omega
    rw [h1]
    simp [h2, hi, h3, BitVec.getLsbD_of_ge a (m + i) (by omega)]

/-- Where each bit of a left rotate goes. -/
theorem rotLeft_bit {n : Nat} (hn : 0 < n) (a : BitVec n) (k i : Nat) (hi : i < n) : (rotLeft a k).getLsbD ((i + k) % n) = a.getLsbD i := by
  have hk := Nat.mod_lt k hn
  have e : (i + k) % n = (i + k % n) % n := by simp
  unfold rotLeft
  rw [e]
  generalize k % n = m at *
  simp only [BitVec.getLsbD_or, BitVec.getLsbD_ushiftRight, BitVec.getLsbD_shiftLeft]
  by_cases h : i + m < n
  · rw [Nat.mod_eq_of_lt h]
    simp [h, BitVec.getLsbD_of_ge a (n - m + (i + m)) (by omega)]
  · have h1 : (i + m) % n = i + m - n := by rw [Nat.mod_eq_sub_mod (by omega), Nat.mod_eq_of_lt (by omega)]
    have h2 : i + m - n < m := by omega
    have h3 : n - m + (i + m - n) = i := by omega
    rw [h1]
    simp [h2, h3]

/-! ## Writing back -/

/-- After the flags, the draws and the program counter are written, every other register reads as before. -/
theorem State.x_writeBack (s : State) (u : FlagUpdate) (k len : Nat) (q : RegNo) (h1 : q ≠ s.flagsReg) (h2 : q ≠ s.pcReg) :
    (((s.updateFlags u).drew k).advance len).x q = s.x q := by
  rw [State.x_advance, State.x_drew, State.x_updateFlags, if_neg (by simpa using h2), if_neg h1]

/-- What a 27-bit result written back leaves, when it is not refused. -/
theorem State.writeWord_next {s t : State} {rA : RegNo} {len : Nat} {r : Word} {u : FlagUpdate} {k : Nat}
    (h : s.writeWord rA len r u k = .next t) :
    rA ≠ s.pcReg ∧ t = (((s.setX rA r).updateFlags u).drew k).advance len := by
  unfold State.writeWord at h
  split at h
  · cases h
  · rename_i hr
    injection h with h
    exact ⟨hr, h.symm⟩

/-- What a 54-bit result written back leaves, when it is not refused. -/
theorem State.writePair_next {s t : State} {rA : RegNo} {r : Pair} {u : FlagUpdate} {k : Nat}
    (h : s.writePair rA r u k = .next t) :
    rA ≠ s.pcReg ∧ rA + 1 ≠ s.pcReg ∧ t = (((s.setXX rA r).updateFlags u).drew k).advance 3 := by
  unfold State.writePair at h
  split at h
  · cases h
  · rename_i hr
    rw [not_or] at hr
    injection h with h
    exact ⟨hr.1, hr.2, h.symm⟩

end Sys2Proof.Machine
end

