-- ==== Sys2Proof/Laws/PerInstr.lean ====
section
/-! SUPPORT. What holds of every instruction as syntax, one lemma for each constructor: its word fits its length, and the first 18 figure bits of the word select that length. -/

namespace Sys2Proof

/-! ## Which leading bits select which length (30_encoding.md R102) -/

/-- Leading bits below `10100`: three bytes. -/
theorem lengthOf_low {p : Nat} (h : p / 2 ^ 13 < 20) : lengthOf p = some 3 := by
  simp only [lengthOf, if_pos h]

/-- An 18-bit system instruction: two bytes. -/
theorem lengthOf_system {p : Nat} (h : p / 2 ^ 13 = 20) (h2 : p / 2 ^ 11 % 4 = 0)
    (h3 : p / 2 ^ 6 % 32 ≤ 5 ∨ p / 2 ^ 6 % 32 = 11 ∨ p / 2 ^ 6 % 32 = 12) : lengthOf p = some 2 := by
  simp only [lengthOf, h, h2, if_pos h3]
  rfl

/-- An extend: three bytes. -/
theorem lengthOf_extend {p : Nat} (h : p / 2 ^ 13 = 20) (h2 : p / 2 ^ 11 % 4 = 0)
    (h3 : 7 ≤ p / 2 ^ 6 % 32 ∧ p / 2 ^ 6 % 32 ≤ 10) : lengthOf p = some 3 := by
  have h4 : ¬ (p / 2 ^ 6 % 32 ≤ 5 ∨ p / 2 ^ 6 % 32 = 11 ∨ p / 2 ^ 6 % 32 = 12) := by omega
  simp only [lengthOf, h, h2, if_neg h4, if_pos h3]
  rfl

/-- The rest of leading bits `10100`: three bytes. -/
theorem lengthOf_other {p : Nat} (h : p / 2 ^ 13 = 20) (h2 : p / 2 ^ 11 % 4 ≠ 0) : lengthOf p = some 3 := by
  simp only [lengthOf, h, if_neg h2]
  rfl

/-- A load or store: six bytes. -/
theorem lengthOf_move {p : Nat} (h : p / 2 ^ 13 = 21 ∨ p / 2 ^ 13 = 22) : lengthOf p = some 6 := by
  rcases h with h | h <;> simp only [lengthOf, h] <;> rfl

/-- A compare of registers: two bytes. -/
theorem lengthOf_compare {p : Nat} (h : p / 2 ^ 13 = 23) (h2 : p / 2 ^ 10 % 2 = 0) : lengthOf p = some 2 := by
  simp only [lengthOf, h, h2]
  rfl

/-- A compare with an immediate: three bytes. -/
theorem lengthOf_compareImm {p : Nat} (h : p / 2 ^ 13 = 23) (h2 : p / 2 ^ 10 % 2 ≠ 0) : lengthOf p = some 3 := by
  simp only [lengthOf, h, if_neg h2]
  rfl

/-- A conditional branch or call with an offset: three bytes. -/
theorem lengthOf_conditional {p : Nat} (h : p / 2 ^ 13 = 24 ∨ p / 2 ^ 13 = 26) : lengthOf p = some 3 := by
  rcases h with h | h <;> simp only [lengthOf, h] <;> rfl

/-- A conditional branch or call to a register, or DBRK: two bytes. -/
theorem lengthOf_conditionalReg {p : Nat} (h : p / 2 ^ 13 = 25 ∨ p / 2 ^ 13 = 27 ∨ p / 2 ^ 13 = 31) : lengthOf p = some 2 := by
  rcases h with h | h | h <;> simp only [lengthOf, h] <;> rfl

/-- An unconditional branch or call: four bytes. -/
theorem lengthOf_direct {p : Nat} (h : p / 2 ^ 13 = 28) : lengthOf p = some 4 := by
  simp only [lengthOf, h]
  rfl

/-! ## The opcode of a packed word -/

/-- The opcode field of `packR3`. -/
theorem packR3_top (op k : Nat) (rA rB rC : RegNo) (uf : Bool) (h : k < 16) :
    packR3 op k rA rB rC uf / 2 ^ 20 = op := by
  have := uf.toNat_lt
  unfold packR3
  omega

/-- The opcode field of `packRI`. -/
theorem packRI_top (op k : Nat) (rA rB : RegNo) (imm : BitVec 7) (uf : Bool) (h : k < 4) :
    packRI op k rA rB imm uf / 2 ^ 20 = op := by
  have := uf.toNat_lt
  unfold packRI
  omega

/-- The opcode field of `packMI`. -/
theorem packMI_top (op : Nat) (rA : RegNo) (imm : BitVec 17) :
    packMI op rA imm / 2 ^ 22 = op := by
  unfold packMI
  omega

/-- The opcode field of `packR1`. -/
theorem packR1_top (op : Nat) (rA : RegNo) :
    packR1 op rA / 2 ^ 6 = op := by
  unfold packR1
  omega

/-- The opcode field of `packR2X`. -/
theorem packR2X_top (op : Nat) (rA rB : RegNo) :
    packR2X op rA rB / 2 ^ 15 = op := by
  unfold packR2X
  omega

/-- The opcode field of `packR2C`. -/
theorem packR2C_top (op : Nat) (rA rB : RegNo) :
    packR2C op rA rB / 2 ^ 18 = op := by
  unfold packR2C
  omega

/-- The opcode field of `packR2U`. -/
theorem packR2U_top (op fn : Nat) (rA rB : RegNo) (uf : Bool) (h : fn < 128) :
    packR2U op fn rA rB uf / 2 ^ 18 = op := by
  have := uf.toNat_lt
  unfold packR2U
  omega

/-- The opcode field of `packLS`. -/
theorem packLS_top (op : Nat) (rA rB : RegNo) (count : Fin 32) (mode : Fin 4) (offset : BitVec 27) :
    packLS op rA rB count mode offset / 2 ^ 47 = op := by
  unfold packLS
  omega

/-- The opcode field of `packCR2`. -/
theorem packCR2_top (op : Nat) (rA rB : RegNo) :
    packCR2 op rA rB / 2 ^ 10 = op := by
  unfold packCR2
  omega

/-- The opcode field of `packCI`. -/
theorem packCI_top (op : Nat) (rA : RegNo) (imm : BitVec 14) :
    packCI op rA imm / 2 ^ 19 = op := by
  unfold packCI
  omega

/-- The opcode field of `packBO`. -/
theorem packBO_top (op : Nat) (cond : Fin 16) (offset : BitVec 17) :
    packBO op cond offset / 2 ^ 21 = op := by
  unfold packBO
  omega

/-- The opcode field of `packBR`. -/
theorem packBR_top (op : Nat) (cond : Fin 16) (rA : RegNo) :
    packBR op cond rA / 2 ^ 12 = op := by
  unfold packBR
  omega

/-- The opcode field of `packA36`. -/
theorem packA36_top (op : Nat) (location : BitVec 27) :
    packA36 op location / 2 ^ 27 = op := by
  unfold packA36
  omega

end Sys2Proof

namespace Sys2Proof.Laws

/-- The word of the instruction fits its length, and its first 18 figure bits select that length (30_encoding.md R101, R102). -/
def EncodedLength.Statement (i : Instr) : Prop :=
  encodeWord i < 2 ^ (9 * i.len) ∧ lengthOf (encodeWord i / 2 ^ (9 * (i.len - 2))) = some i.len

theorem EncodedLength.ad : ∀ rA rB rC uf, EncodedLength.Statement (.ad rA rB rC uf) := by
  intro rA rB rC uf
  have h := packR3_top 0 0 rA rB rC uf (by decide)
  change packR3 0 0 rA rB rC uf < 2 ^ (9 * 3) ∧ lengthOf (packR3 0 0 rA rB rC uf / 2 ^ (9 * (3 - 2))) = some 3
  generalize packR3 0 0 rA rB rC uf = w at h
  exact ⟨by omega, lengthOf_low (by omega)⟩

theorem EncodedLength.adi : ∀ rA rB imm uf, EncodedLength.Statement (.adi rA rB imm uf) := by
  intro rA rB imm uf
  have h := packRI_top 0 1 rA rB imm uf (by decide)
  change packRI 0 1 rA rB imm uf < 2 ^ (9 * 3) ∧ lengthOf (packRI 0 1 rA rB imm uf / 2 ^ (9 * (3 - 2))) = some 3
  generalize packRI 0 1 rA rB imm uf = w at h
  exact ⟨by omega, lengthOf_low (by omega)⟩

theorem EncodedLength.adm : ∀ rA rB rC uf, EncodedLength.Statement (.adm rA rB rC uf) := by
  intro rA rB rC uf
  have h := packR3_top 2 0 rA rB rC uf (by decide)
  change packR3 2 0 rA rB rC uf < 2 ^ (9 * 3) ∧ lengthOf (packR3 2 0 rA rB rC uf / 2 ^ (9 * (3 - 2))) = some 3
  generalize packR3 2 0 rA rB rC uf = w at h
  exact ⟨by omega, lengthOf_low (by omega)⟩

theorem EncodedLength.adim : ∀ rA rB imm uf, EncodedLength.Statement (.adim rA rB imm uf) := by
  intro rA rB imm uf
  have h := packRI_top 2 1 rA rB imm uf (by decide)
  change packRI 2 1 rA rB imm uf < 2 ^ (9 * 3) ∧ lengthOf (packRI 2 1 rA rB imm uf / 2 ^ (9 * (3 - 2))) = some 3
  generalize packRI 2 1 rA rB imm uf = w at h
  exact ⟨by omega, lengthOf_low (by omega)⟩

theorem EncodedLength.adc : ∀ rA rB rC uf, EncodedLength.Statement (.adc rA rB rC uf) := by
  intro rA rB rC uf
  have h := packR3_top 32 0 rA rB rC uf (by decide)
  change packR3 32 0 rA rB rC uf < 2 ^ (9 * 3) ∧ lengthOf (packR3 32 0 rA rB rC uf / 2 ^ (9 * (3 - 2))) = some 3
  generalize packR3 32 0 rA rB rC uf = w at h
  exact ⟨by omega, lengthOf_low (by omega)⟩

theorem EncodedLength.adci : ∀ rA rB imm uf, EncodedLength.Statement (.adci rA rB imm uf) := by
  intro rA rB imm uf
  have h := packRI_top 32 1 rA rB imm uf (by decide)
  change packRI 32 1 rA rB imm uf < 2 ^ (9 * 3) ∧ lengthOf (packRI 32 1 rA rB imm uf / 2 ^ (9 * (3 - 2))) = some 3
  generalize packRI 32 1 rA rB imm uf = w at h
  exact ⟨by omega, lengthOf_low (by omega)⟩

theorem EncodedLength.adcm : ∀ rA rB rC uf, EncodedLength.Statement (.adcm rA rB rC uf) := by
  intro rA rB rC uf
  have h := packR3_top 34 0 rA rB rC uf (by decide)
  change packR3 34 0 rA rB rC uf < 2 ^ (9 * 3) ∧ lengthOf (packR3 34 0 rA rB rC uf / 2 ^ (9 * (3 - 2))) = some 3
  generalize packR3 34 0 rA rB rC uf = w at h
  exact ⟨by omega, lengthOf_low (by omega)⟩

theorem EncodedLength.adcim : ∀ rA rB imm uf, EncodedLength.Statement (.adcim rA rB imm uf) := by
  intro rA rB imm uf
  have h := packRI_top 34 1 rA rB imm uf (by decide)
  change packRI 34 1 rA rB imm uf < 2 ^ (9 * 3) ∧ lengthOf (packRI 34 1 rA rB imm uf / 2 ^ (9 * (3 - 2))) = some 3
  generalize packRI 34 1 rA rB imm uf = w at h
  exact ⟨by omega, lengthOf_low (by omega)⟩

theorem EncodedLength.sb : ∀ rA rB rC uf, EncodedLength.Statement (.sb rA rB rC uf) := by
  intro rA rB rC uf
  have h := packR3_top 4 0 rA rB rC uf (by decide)
  change packR3 4 0 rA rB rC uf < 2 ^ (9 * 3) ∧ lengthOf (packR3 4 0 rA rB rC uf / 2 ^ (9 * (3 - 2))) = some 3
  generalize packR3 4 0 rA rB rC uf = w at h
  exact ⟨by omega, lengthOf_low (by omega)⟩

theorem EncodedLength.sbi : ∀ rA rB imm uf, EncodedLength.Statement (.sbi rA rB imm uf) := by
  intro rA rB imm uf
  have h := packRI_top 4 1 rA rB imm uf (by decide)
  change packRI 4 1 rA rB imm uf < 2 ^ (9 * 3) ∧ lengthOf (packRI 4 1 rA rB imm uf / 2 ^ (9 * (3 - 2))) = some 3
  generalize packRI 4 1 rA rB imm uf = w at h
  exact ⟨by omega, lengthOf_low (by omega)⟩

theorem EncodedLength.sbm : ∀ rA rB rC uf, EncodedLength.Statement (.sbm rA rB rC uf) := by
  intro rA rB rC uf
  have h := packR3_top 6 0 rA rB rC uf (by decide)
  change packR3 6 0 rA rB rC uf < 2 ^ (9 * 3) ∧ lengthOf (packR3 6 0 rA rB rC uf / 2 ^ (9 * (3 - 2))) = some 3
  generalize packR3 6 0 rA rB rC uf = w at h
  exact ⟨by omega, lengthOf_low (by omega)⟩

theorem EncodedLength.sbim : ∀ rA rB imm uf, EncodedLength.Statement (.sbim rA rB imm uf) := by
  intro rA rB imm uf
  have h := packRI_top 6 1 rA rB imm uf (by decide)
  change packRI 6 1 rA rB imm uf < 2 ^ (9 * 3) ∧ lengthOf (packRI 6 1 rA rB imm uf / 2 ^ (9 * (3 - 2))) = some 3
  generalize packRI 6 1 rA rB imm uf = w at h
  exact ⟨by omega, lengthOf_low (by omega)⟩

theorem EncodedLength.sbc : ∀ rA rB rC uf, EncodedLength.Statement (.sbc rA rB rC uf) := by
  intro rA rB rC uf
  have h := packR3_top 36 0 rA rB rC uf (by decide)
  change packR3 36 0 rA rB rC uf < 2 ^ (9 * 3) ∧ lengthOf (packR3 36 0 rA rB rC uf / 2 ^ (9 * (3 - 2))) = some 3
  generalize packR3 36 0 rA rB rC uf = w at h
  exact ⟨by omega, lengthOf_low (by omega)⟩

theorem EncodedLength.sbci : ∀ rA rB imm uf, EncodedLength.Statement (.sbci rA rB imm uf) := by
  intro rA rB imm uf
  have h := packRI_top 36 1 rA rB imm uf (by decide)
  change packRI 36 1 rA rB imm uf < 2 ^ (9 * 3) ∧ lengthOf (packRI 36 1 rA rB imm uf / 2 ^ (9 * (3 - 2))) = some 3
  generalize packRI 36 1 rA rB imm uf = w at h
  exact ⟨by omega, lengthOf_low (by omega)⟩

theorem EncodedLength.sbcm : ∀ rA rB rC uf, EncodedLength.Statement (.sbcm rA rB rC uf) := by
  intro rA rB rC uf
  have h := packR3_top 38 0 rA rB rC uf (by decide)
  change packR3 38 0 rA rB rC uf < 2 ^ (9 * 3) ∧ lengthOf (packR3 38 0 rA rB rC uf / 2 ^ (9 * (3 - 2))) = some 3
  generalize packR3 38 0 rA rB rC uf = w at h
  exact ⟨by omega, lengthOf_low (by omega)⟩

theorem EncodedLength.sbcim : ∀ rA rB imm uf, EncodedLength.Statement (.sbcim rA rB imm uf) := by
  intro rA rB imm uf
  have h := packRI_top 38 1 rA rB imm uf (by decide)
  change packRI 38 1 rA rB imm uf < 2 ^ (9 * 3) ∧ lengthOf (packRI 38 1 rA rB imm uf / 2 ^ (9 * (3 - 2))) = some 3
  generalize packRI 38 1 rA rB imm uf = w at h
  exact ⟨by omega, lengthOf_low (by omega)⟩

theorem EncodedLength.mu : ∀ rA rB rC uf, EncodedLength.Statement (.mu rA rB rC uf) := by
  intro rA rB rC uf
  have h := packR3_top 8 0 rA rB rC uf (by decide)
  change packR3 8 0 rA rB rC uf < 2 ^ (9 * 3) ∧ lengthOf (packR3 8 0 rA rB rC uf / 2 ^ (9 * (3 - 2))) = some 3
  generalize packR3 8 0 rA rB rC uf = w at h
  exact ⟨by omega, lengthOf_low (by omega)⟩

theorem EncodedLength.mui : ∀ rA rB imm uf, EncodedLength.Statement (.mui rA rB imm uf) := by
  intro rA rB imm uf
  have h := packRI_top 8 1 rA rB imm uf (by decide)
  change packRI 8 1 rA rB imm uf < 2 ^ (9 * 3) ∧ lengthOf (packRI 8 1 rA rB imm uf / 2 ^ (9 * (3 - 2))) = some 3
  generalize packRI 8 1 rA rB imm uf = w at h
  exact ⟨by omega, lengthOf_low (by omega)⟩

theorem EncodedLength.mum : ∀ rA rB rC uf, EncodedLength.Statement (.mum rA rB rC uf) := by
  intro rA rB rC uf
  have h := packR3_top 10 0 rA rB rC uf (by decide)
  change packR3 10 0 rA rB rC uf < 2 ^ (9 * 3) ∧ lengthOf (packR3 10 0 rA rB rC uf / 2 ^ (9 * (3 - 2))) = some 3
  generalize packR3 10 0 rA rB rC uf = w at h
  exact ⟨by omega, lengthOf_low (by omega)⟩

theorem EncodedLength.muim : ∀ rA rB imm uf, EncodedLength.Statement (.muim rA rB imm uf) := by
  intro rA rB imm uf
  have h := packRI_top 10 1 rA rB imm uf (by decide)
  change packRI 10 1 rA rB imm uf < 2 ^ (9 * 3) ∧ lengthOf (packRI 10 1 rA rB imm uf / 2 ^ (9 * (3 - 2))) = some 3
  generalize packRI 10 1 rA rB imm uf = w at h
  exact ⟨by omega, lengthOf_low (by omega)⟩

theorem EncodedLength.mus : ∀ rA rB rC uf, EncodedLength.Statement (.mus rA rB rC uf) := by
  intro rA rB rC uf
  have h := packR3_top 8 2 rA rB rC uf (by decide)
  change packR3 8 2 rA rB rC uf < 2 ^ (9 * 3) ∧ lengthOf (packR3 8 2 rA rB rC uf / 2 ^ (9 * (3 - 2))) = some 3
  generalize packR3 8 2 rA rB rC uf = w at h
  exact ⟨by omega, lengthOf_low (by omega)⟩

theorem EncodedLength.muis : ∀ rA rB imm uf, EncodedLength.Statement (.muis rA rB imm uf) := by
  intro rA rB imm uf
  have h := packRI_top 8 3 rA rB imm uf (by decide)
  change packRI 8 3 rA rB imm uf < 2 ^ (9 * 3) ∧ lengthOf (packRI 8 3 rA rB imm uf / 2 ^ (9 * (3 - 2))) = some 3
  generalize packRI 8 3 rA rB imm uf = w at h
  exact ⟨by omega, lengthOf_low (by omega)⟩

theorem EncodedLength.musm : ∀ rA rB rC uf, EncodedLength.Statement (.musm rA rB rC uf) := by
  intro rA rB rC uf
  have h := packR3_top 10 2 rA rB rC uf (by decide)
  change packR3 10 2 rA rB rC uf < 2 ^ (9 * 3) ∧ lengthOf (packR3 10 2 rA rB rC uf / 2 ^ (9 * (3 - 2))) = some 3
  generalize packR3 10 2 rA rB rC uf = w at h
  exact ⟨by omega, lengthOf_low (by omega)⟩

theorem EncodedLength.muism : ∀ rA rB imm uf, EncodedLength.Statement (.muism rA rB imm uf) := by
  intro rA rB imm uf
  have h := packRI_top 10 3 rA rB imm uf (by decide)
  change packRI 10 3 rA rB imm uf < 2 ^ (9 * 3) ∧ lengthOf (packRI 10 3 rA rB imm uf / 2 ^ (9 * (3 - 2))) = some 3
  generalize packRI 10 3 rA rB imm uf = w at h
  exact ⟨by omega, lengthOf_low (by omega)⟩

theorem EncodedLength.dv : ∀ rA rB rC uf, EncodedLength.Statement (.dv rA rB rC uf) := by
  intro rA rB rC uf
  have h := packR3_top 12 0 rA rB rC uf (by decide)
  change packR3 12 0 rA rB rC uf < 2 ^ (9 * 3) ∧ lengthOf (packR3 12 0 rA rB rC uf / 2 ^ (9 * (3 - 2))) = some 3
  generalize packR3 12 0 rA rB rC uf = w at h
  exact ⟨by omega, lengthOf_low (by omega)⟩

theorem EncodedLength.dvi : ∀ rA rB imm uf, EncodedLength.Statement (.dvi rA rB imm uf) := by
  intro rA rB imm uf
  have h := packRI_top 12 1 rA rB imm uf (by decide)
  change packRI 12 1 rA rB imm uf < 2 ^ (9 * 3) ∧ lengthOf (packRI 12 1 rA rB imm uf / 2 ^ (9 * (3 - 2))) = some 3
  generalize packRI 12 1 rA rB imm uf = w at h
  exact ⟨by omega, lengthOf_low (by omega)⟩

theorem EncodedLength.dvm : ∀ rA rB rC uf, EncodedLength.Statement (.dvm rA rB rC uf) := by
  intro rA rB rC uf
  have h := packR3_top 14 0 rA rB rC uf (by decide)
  change packR3 14 0 rA rB rC uf < 2 ^ (9 * 3) ∧ lengthOf (packR3 14 0 rA rB rC uf / 2 ^ (9 * (3 - 2))) = some 3
  generalize packR3 14 0 rA rB rC uf = w at h
  exact ⟨by omega, lengthOf_low (by omega)⟩

theorem EncodedLength.dvim : ∀ rA rB imm uf, EncodedLength.Statement (.dvim rA rB imm uf) := by
  intro rA rB imm uf
  have h := packRI_top 14 1 rA rB imm uf (by decide)
  change packRI 14 1 rA rB imm uf < 2 ^ (9 * 3) ∧ lengthOf (packRI 14 1 rA rB imm uf / 2 ^ (9 * (3 - 2))) = some 3
  generalize packRI 14 1 rA rB imm uf = w at h
  exact ⟨by omega, lengthOf_low (by omega)⟩

theorem EncodedLength.dvs : ∀ rA rB rC uf, EncodedLength.Statement (.dvs rA rB rC uf) := by
  intro rA rB rC uf
  have h := packR3_top 12 2 rA rB rC uf (by decide)
  change packR3 12 2 rA rB rC uf < 2 ^ (9 * 3) ∧ lengthOf (packR3 12 2 rA rB rC uf / 2 ^ (9 * (3 - 2))) = some 3
  generalize packR3 12 2 rA rB rC uf = w at h
  exact ⟨by omega, lengthOf_low (by omega)⟩

theorem EncodedLength.dvis : ∀ rA rB imm uf, EncodedLength.Statement (.dvis rA rB imm uf) := by
  intro rA rB imm uf
  have h := packRI_top 12 3 rA rB imm uf (by decide)
  change packRI 12 3 rA rB imm uf < 2 ^ (9 * 3) ∧ lengthOf (packRI 12 3 rA rB imm uf / 2 ^ (9 * (3 - 2))) = some 3
  generalize packRI 12 3 rA rB imm uf = w at h
  exact ⟨by omega, lengthOf_low (by omega)⟩

theorem EncodedLength.dvsm : ∀ rA rB rC uf, EncodedLength.Statement (.dvsm rA rB rC uf) := by
  intro rA rB rC uf
  have h := packR3_top 14 2 rA rB rC uf (by decide)
  change packR3 14 2 rA rB rC uf < 2 ^ (9 * 3) ∧ lengthOf (packR3 14 2 rA rB rC uf / 2 ^ (9 * (3 - 2))) = some 3
  generalize packR3 14 2 rA rB rC uf = w at h
  exact ⟨by omega, lengthOf_low (by omega)⟩

theorem EncodedLength.dvism : ∀ rA rB imm uf, EncodedLength.Statement (.dvism rA rB imm uf) := by
  intro rA rB imm uf
  have h := packRI_top 14 3 rA rB imm uf (by decide)
  change packRI 14 3 rA rB imm uf < 2 ^ (9 * 3) ∧ lengthOf (packRI 14 3 rA rB imm uf / 2 ^ (9 * (3 - 2))) = some 3
  generalize packRI 14 3 rA rB imm uf = w at h
  exact ⟨by omega, lengthOf_low (by omega)⟩

theorem EncodedLength.md : ∀ rA rB rC uf, EncodedLength.Statement (.md rA rB rC uf) := by
  intro rA rB rC uf
  have h := packR3_top 16 0 rA rB rC uf (by decide)
  change packR3 16 0 rA rB rC uf < 2 ^ (9 * 3) ∧ lengthOf (packR3 16 0 rA rB rC uf / 2 ^ (9 * (3 - 2))) = some 3
  generalize packR3 16 0 rA rB rC uf = w at h
  exact ⟨by omega, lengthOf_low (by omega)⟩

theorem EncodedLength.mdi : ∀ rA rB imm uf, EncodedLength.Statement (.mdi rA rB imm uf) := by
  intro rA rB imm uf
  have h := packRI_top 16 1 rA rB imm uf (by decide)
  change packRI 16 1 rA rB imm uf < 2 ^ (9 * 3) ∧ lengthOf (packRI 16 1 rA rB imm uf / 2 ^ (9 * (3 - 2))) = some 3
  generalize packRI 16 1 rA rB imm uf = w at h
  exact ⟨by omega, lengthOf_low (by omega)⟩

theorem EncodedLength.mdm : ∀ rA rB rC uf, EncodedLength.Statement (.mdm rA rB rC uf) := by
  intro rA rB rC uf
  have h := packR3_top 18 0 rA rB rC uf (by decide)
  change packR3 18 0 rA rB rC uf < 2 ^ (9 * 3) ∧ lengthOf (packR3 18 0 rA rB rC uf / 2 ^ (9 * (3 - 2))) = some 3
  generalize packR3 18 0 rA rB rC uf = w at h
  exact ⟨by omega, lengthOf_low (by omega)⟩

theorem EncodedLength.mdim : ∀ rA rB imm uf, EncodedLength.Statement (.mdim rA rB imm uf) := by
  intro rA rB imm uf
  have h := packRI_top 18 1 rA rB imm uf (by decide)
  change packRI 18 1 rA rB imm uf < 2 ^ (9 * 3) ∧ lengthOf (packRI 18 1 rA rB imm uf / 2 ^ (9 * (3 - 2))) = some 3
  generalize packRI 18 1 rA rB imm uf = w at h
  exact ⟨by omega, lengthOf_low (by omega)⟩

theorem EncodedLength.mds : ∀ rA rB rC uf, EncodedLength.Statement (.mds rA rB rC uf) := by
  intro rA rB rC uf
  have h := packR3_top 16 2 rA rB rC uf (by decide)
  change packR3 16 2 rA rB rC uf < 2 ^ (9 * 3) ∧ lengthOf (packR3 16 2 rA rB rC uf / 2 ^ (9 * (3 - 2))) = some 3
  generalize packR3 16 2 rA rB rC uf = w at h
  exact ⟨by omega, lengthOf_low (by omega)⟩

theorem EncodedLength.mdis : ∀ rA rB imm uf, EncodedLength.Statement (.mdis rA rB imm uf) := by
  intro rA rB imm uf
  have h := packRI_top 16 3 rA rB imm uf (by decide)
  change packRI 16 3 rA rB imm uf < 2 ^ (9 * 3) ∧ lengthOf (packRI 16 3 rA rB imm uf / 2 ^ (9 * (3 - 2))) = some 3
  generalize packRI 16 3 rA rB imm uf = w at h
  exact ⟨by omega, lengthOf_low (by omega)⟩

theorem EncodedLength.mdsm : ∀ rA rB rC uf, EncodedLength.Statement (.mdsm rA rB rC uf) := by
  intro rA rB rC uf
  have h := packR3_top 18 2 rA rB rC uf (by decide)
  change packR3 18 2 rA rB rC uf < 2 ^ (9 * 3) ∧ lengthOf (packR3 18 2 rA rB rC uf / 2 ^ (9 * (3 - 2))) = some 3
  generalize packR3 18 2 rA rB rC uf = w at h
  exact ⟨by omega, lengthOf_low (by omega)⟩

theorem EncodedLength.mdism : ∀ rA rB imm uf, EncodedLength.Statement (.mdism rA rB imm uf) := by
  intro rA rB imm uf
  have h := packRI_top 18 3 rA rB imm uf (by decide)
  change packRI 18 3 rA rB imm uf < 2 ^ (9 * 3) ∧ lengthOf (packRI 18 3 rA rB imm uf / 2 ^ (9 * (3 - 2))) = some 3
  generalize packRI 18 3 rA rB imm uf = w at h
  exact ⟨by omega, lengthOf_low (by omega)⟩

theorem EncodedLength.an : ∀ rA rB rC uf, EncodedLength.Statement (.an rA rB rC uf) := by
  intro rA rB rC uf
  have h := packR3_top 20 0 rA rB rC uf (by decide)
  change packR3 20 0 rA rB rC uf < 2 ^ (9 * 3) ∧ lengthOf (packR3 20 0 rA rB rC uf / 2 ^ (9 * (3 - 2))) = some 3
  generalize packR3 20 0 rA rB rC uf = w at h
  exact ⟨by omega, lengthOf_low (by omega)⟩

theorem EncodedLength.ani : ∀ rA rB imm uf, EncodedLength.Statement (.ani rA rB imm uf) := by
  intro rA rB imm uf
  have h := packRI_top 20 1 rA rB imm uf (by decide)
  change packRI 20 1 rA rB imm uf < 2 ^ (9 * 3) ∧ lengthOf (packRI 20 1 rA rB imm uf / 2 ^ (9 * (3 - 2))) = some 3
  generalize packRI 20 1 rA rB imm uf = w at h
  exact ⟨by omega, lengthOf_low (by omega)⟩

theorem EncodedLength.anm : ∀ rA rB rC uf, EncodedLength.Statement (.anm rA rB rC uf) := by
  intro rA rB rC uf
  have h := packR3_top 22 0 rA rB rC uf (by decide)
  change packR3 22 0 rA rB rC uf < 2 ^ (9 * 3) ∧ lengthOf (packR3 22 0 rA rB rC uf / 2 ^ (9 * (3 - 2))) = some 3
  generalize packR3 22 0 rA rB rC uf = w at h
  exact ⟨by omega, lengthOf_low (by omega)⟩

theorem EncodedLength.or : ∀ rA rB rC uf, EncodedLength.Statement (.or rA rB rC uf) := by
  intro rA rB rC uf
  have h := packR3_top 24 0 rA rB rC uf (by decide)
  change packR3 24 0 rA rB rC uf < 2 ^ (9 * 3) ∧ lengthOf (packR3 24 0 rA rB rC uf / 2 ^ (9 * (3 - 2))) = some 3
  generalize packR3 24 0 rA rB rC uf = w at h
  exact ⟨by omega, lengthOf_low (by omega)⟩

theorem EncodedLength.ori : ∀ rA rB imm uf, EncodedLength.Statement (.ori rA rB imm uf) := by
  intro rA rB imm uf
  have h := packRI_top 24 1 rA rB imm uf (by decide)
  change packRI 24 1 rA rB imm uf < 2 ^ (9 * 3) ∧ lengthOf (packRI 24 1 rA rB imm uf / 2 ^ (9 * (3 - 2))) = some 3
  generalize packRI 24 1 rA rB imm uf = w at h
  exact ⟨by omega, lengthOf_low (by omega)⟩

theorem EncodedLength.orm : ∀ rA rB rC uf, EncodedLength.Statement (.orm rA rB rC uf) := by
  intro rA rB rC uf
  have h := packR3_top 26 0 rA rB rC uf (by decide)
  change packR3 26 0 rA rB rC uf < 2 ^ (9 * 3) ∧ lengthOf (packR3 26 0 rA rB rC uf / 2 ^ (9 * (3 - 2))) = some 3
  generalize packR3 26 0 rA rB rC uf = w at h
  exact ⟨by omega, lengthOf_low (by omega)⟩

theorem EncodedLength.xr : ∀ rA rB rC uf, EncodedLength.Statement (.xr rA rB rC uf) := by
  intro rA rB rC uf
  have h := packR3_top 28 0 rA rB rC uf (by decide)
  change packR3 28 0 rA rB rC uf < 2 ^ (9 * 3) ∧ lengthOf (packR3 28 0 rA rB rC uf / 2 ^ (9 * (3 - 2))) = some 3
  generalize packR3 28 0 rA rB rC uf = w at h
  exact ⟨by omega, lengthOf_low (by omega)⟩

theorem EncodedLength.xri : ∀ rA rB imm uf, EncodedLength.Statement (.xri rA rB imm uf) := by
  intro rA rB imm uf
  have h := packRI_top 28 1 rA rB imm uf (by decide)
  change packRI 28 1 rA rB imm uf < 2 ^ (9 * 3) ∧ lengthOf (packRI 28 1 rA rB imm uf / 2 ^ (9 * (3 - 2))) = some 3
  generalize packRI 28 1 rA rB imm uf = w at h
  exact ⟨by omega, lengthOf_low (by omega)⟩

theorem EncodedLength.xrm : ∀ rA rB rC uf, EncodedLength.Statement (.xrm rA rB rC uf) := by
  intro rA rB rC uf
  have h := packR3_top 30 0 rA rB rC uf (by decide)
  change packR3 30 0 rA rB rC uf < 2 ^ (9 * 3) ∧ lengthOf (packR3 30 0 rA rB rC uf / 2 ^ (9 * (3 - 2))) = some 3
  generalize packR3 30 0 rA rB rC uf = w at h
  exact ⟨by omega, lengthOf_low (by omega)⟩

theorem EncodedLength.bf : ∀ rA rB uf, EncodedLength.Statement (.bf rA rB uf) := by
  intro rA rB uf
  have h := packR2U_top 332 64 rA rB uf (by decide)
  change packR2U 332 64 rA rB uf < 2 ^ (9 * 3) ∧ lengthOf (packR2U 332 64 rA rB uf / 2 ^ (9 * (3 - 2))) = some 3
  generalize packR2U 332 64 rA rB uf = w at h
  exact ⟨by omega, lengthOf_other (by omega) (by omega)⟩

theorem EncodedLength.bfm : ∀ rA rB uf, EncodedLength.Statement (.bfm rA rB uf) := by
  intro rA rB uf
  have h := packR2U_top 334 64 rA rB uf (by decide)
  change packR2U 334 64 rA rB uf < 2 ^ (9 * 3) ∧ lengthOf (packR2U 334 64 rA rB uf / 2 ^ (9 * (3 - 2))) = some 3
  generalize packR2U 334 64 rA rB uf = w at h
  exact ⟨by omega, lengthOf_other (by omega) (by omega)⟩

theorem EncodedLength.ng : ∀ rA rB uf, EncodedLength.Statement (.ng rA rB uf) := by
  intro rA rB uf
  have h := packR2U_top 332 0 rA rB uf (by decide)
  change packR2U 332 0 rA rB uf < 2 ^ (9 * 3) ∧ lengthOf (packR2U 332 0 rA rB uf / 2 ^ (9 * (3 - 2))) = some 3
  generalize packR2U 332 0 rA rB uf = w at h
  exact ⟨by omega, lengthOf_other (by omega) (by omega)⟩

theorem EncodedLength.ngm : ∀ rA rB uf, EncodedLength.Statement (.ngm rA rB uf) := by
  intro rA rB uf
  have h := packR2U_top 334 0 rA rB uf (by decide)
  change packR2U 334 0 rA rB uf < 2 ^ (9 * 3) ∧ lengthOf (packR2U 334 0 rA rB uf / 2 ^ (9 * (3 - 2))) = some 3
  generalize packR2U 334 0 rA rB uf = w at h
  exact ⟨by omega, lengthOf_other (by omega) (by omega)⟩

theorem EncodedLength.nt : ∀ rA rB uf, EncodedLength.Statement (.nt rA rB uf) := by
  intro rA rB uf
  have h := packR2U_top 332 32 rA rB uf (by decide)
  change packR2U 332 32 rA rB uf < 2 ^ (9 * 3) ∧ lengthOf (packR2U 332 32 rA rB uf / 2 ^ (9 * (3 - 2))) = some 3
  generalize packR2U 332 32 rA rB uf = w at h
  exact ⟨by omega, lengthOf_other (by omega) (by omega)⟩

theorem EncodedLength.ntm : ∀ rA rB uf, EncodedLength.Statement (.ntm rA rB uf) := by
  intro rA rB uf
  have h := packR2U_top 334 32 rA rB uf (by decide)
  change packR2U 334 32 rA rB uf < 2 ^ (9 * 3) ∧ lengthOf (packR2U 334 32 rA rB uf / 2 ^ (9 * (3 - 2))) = some 3
  generalize packR2U 334 32 rA rB uf = w at h
  exact ⟨by omega, lengthOf_other (by omega) (by omega)⟩

theorem EncodedLength.sl : ∀ rA rB rC uf, EncodedLength.Statement (.sl rA rB rC uf) := by
  intro rA rB rC uf
  have h := packR3_top 40 0 rA rB rC uf (by decide)
  change packR3 40 0 rA rB rC uf < 2 ^ (9 * 3) ∧ lengthOf (packR3 40 0 rA rB rC uf / 2 ^ (9 * (3 - 2))) = some 3
  generalize packR3 40 0 rA rB rC uf = w at h
  exact ⟨by omega, lengthOf_low (by omega)⟩

theorem EncodedLength.sli : ∀ rA rB imm uf, EncodedLength.Statement (.sli rA rB imm uf) := by
  intro rA rB imm uf
  have h := packRI_top 56 0 rA rB imm uf (by decide)
  change packRI 56 0 rA rB imm uf < 2 ^ (9 * 3) ∧ lengthOf (packRI 56 0 rA rB imm uf / 2 ^ (9 * (3 - 2))) = some 3
  generalize packRI 56 0 rA rB imm uf = w at h
  exact ⟨by omega, lengthOf_low (by omega)⟩

theorem EncodedLength.slm : ∀ rA rB rC uf, EncodedLength.Statement (.slm rA rB rC uf) := by
  intro rA rB rC uf
  have h := packR3_top 42 0 rA rB rC uf (by decide)
  change packR3 42 0 rA rB rC uf < 2 ^ (9 * 3) ∧ lengthOf (packR3 42 0 rA rB rC uf / 2 ^ (9 * (3 - 2))) = some 3
  generalize packR3 42 0 rA rB rC uf = w at h
  exact ⟨by omega, lengthOf_low (by omega)⟩

theorem EncodedLength.slim : ∀ rA rB imm uf, EncodedLength.Statement (.slim rA rB imm uf) := by
  intro rA rB imm uf
  have h := packRI_top 58 0 rA rB imm uf (by decide)
  change packRI 58 0 rA rB imm uf < 2 ^ (9 * 3) ∧ lengthOf (packRI 58 0 rA rB imm uf / 2 ^ (9 * (3 - 2))) = some 3
  generalize packRI 58 0 rA rB imm uf = w at h
  exact ⟨by omega, lengthOf_low (by omega)⟩

theorem EncodedLength.sr : ∀ rA rB rC uf, EncodedLength.Statement (.sr rA rB rC uf) := by
  intro rA rB rC uf
  have h := packR3_top 41 0 rA rB rC uf (by decide)
  change packR3 41 0 rA rB rC uf < 2 ^ (9 * 3) ∧ lengthOf (packR3 41 0 rA rB rC uf / 2 ^ (9 * (3 - 2))) = some 3
  generalize packR3 41 0 rA rB rC uf = w at h
  exact ⟨by omega, lengthOf_low (by omega)⟩

theorem EncodedLength.sri : ∀ rA rB imm uf, EncodedLength.Statement (.sri rA rB imm uf) := by
  intro rA rB imm uf
  have h := packRI_top 57 0 rA rB imm uf (by decide)
  change packRI 57 0 rA rB imm uf < 2 ^ (9 * 3) ∧ lengthOf (packRI 57 0 rA rB imm uf / 2 ^ (9 * (3 - 2))) = some 3
  generalize packRI 57 0 rA rB imm uf = w at h
  exact ⟨by omega, lengthOf_low (by omega)⟩

theorem EncodedLength.srm : ∀ rA rB rC uf, EncodedLength.Statement (.srm rA rB rC uf) := by
  intro rA rB rC uf
  have h := packR3_top 43 0 rA rB rC uf (by decide)
  change packR3 43 0 rA rB rC uf < 2 ^ (9 * 3) ∧ lengthOf (packR3 43 0 rA rB rC uf / 2 ^ (9 * (3 - 2))) = some 3
  generalize packR3 43 0 rA rB rC uf = w at h
  exact ⟨by omega, lengthOf_low (by omega)⟩

theorem EncodedLength.srim : ∀ rA rB imm uf, EncodedLength.Statement (.srim rA rB imm uf) := by
  intro rA rB imm uf
  have h := packRI_top 59 0 rA rB imm uf (by decide)
  change packRI 59 0 rA rB imm uf < 2 ^ (9 * 3) ∧ lengthOf (packRI 59 0 rA rB imm uf / 2 ^ (9 * (3 - 2))) = some 3
  generalize packRI 59 0 rA rB imm uf = w at h
  exact ⟨by omega, lengthOf_low (by omega)⟩

theorem EncodedLength.sa : ∀ rA rB rC uf, EncodedLength.Statement (.sa rA rB rC uf) := by
  intro rA rB rC uf
  have h := packR3_top 45 0 rA rB rC uf (by decide)
  change packR3 45 0 rA rB rC uf < 2 ^ (9 * 3) ∧ lengthOf (packR3 45 0 rA rB rC uf / 2 ^ (9 * (3 - 2))) = some 3
  generalize packR3 45 0 rA rB rC uf = w at h
  exact ⟨by omega, lengthOf_low (by omega)⟩

theorem EncodedLength.sai : ∀ rA rB imm uf, EncodedLength.Statement (.sai rA rB imm uf) := by
  intro rA rB imm uf
  have h := packRI_top 61 0 rA rB imm uf (by decide)
  change packRI 61 0 rA rB imm uf < 2 ^ (9 * 3) ∧ lengthOf (packRI 61 0 rA rB imm uf / 2 ^ (9 * (3 - 2))) = some 3
  generalize packRI 61 0 rA rB imm uf = w at h
  exact ⟨by omega, lengthOf_low (by omega)⟩

theorem EncodedLength.sam : ∀ rA rB rC uf, EncodedLength.Statement (.sam rA rB rC uf) := by
  intro rA rB rC uf
  have h := packR3_top 47 0 rA rB rC uf (by decide)
  change packR3 47 0 rA rB rC uf < 2 ^ (9 * 3) ∧ lengthOf (packR3 47 0 rA rB rC uf / 2 ^ (9 * (3 - 2))) = some 3
  generalize packR3 47 0 rA rB rC uf = w at h
  exact ⟨by omega, lengthOf_low (by omega)⟩

theorem EncodedLength.saim : ∀ rA rB imm uf, EncodedLength.Statement (.saim rA rB imm uf) := by
  intro rA rB imm uf
  have h := packRI_top 63 0 rA rB imm uf (by decide)
  change packRI 63 0 rA rB imm uf < 2 ^ (9 * 3) ∧ lengthOf (packRI 63 0 rA rB imm uf / 2 ^ (9 * (3 - 2))) = some 3
  generalize packRI 63 0 rA rB imm uf = w at h
  exact ⟨by omega, lengthOf_low (by omega)⟩

theorem EncodedLength.rl : ∀ rA rB rC uf, EncodedLength.Statement (.rl rA rB rC uf) := by
  intro rA rB rC uf
  have h := packR3_top 48 0 rA rB rC uf (by decide)
  change packR3 48 0 rA rB rC uf < 2 ^ (9 * 3) ∧ lengthOf (packR3 48 0 rA rB rC uf / 2 ^ (9 * (3 - 2))) = some 3
  generalize packR3 48 0 rA rB rC uf = w at h
  exact ⟨by omega, lengthOf_low (by omega)⟩

theorem EncodedLength.rli : ∀ rA rB imm uf, EncodedLength.Statement (.rli rA rB imm uf) := by
  intro rA rB imm uf
  have h := packRI_top 64 0 rA rB imm uf (by decide)
  change packRI 64 0 rA rB imm uf < 2 ^ (9 * 3) ∧ lengthOf (packRI 64 0 rA rB imm uf / 2 ^ (9 * (3 - 2))) = some 3
  generalize packRI 64 0 rA rB imm uf = w at h
  exact ⟨by omega, lengthOf_low (by omega)⟩

theorem EncodedLength.rlm : ∀ rA rB rC uf, EncodedLength.Statement (.rlm rA rB rC uf) := by
  intro rA rB rC uf
  have h := packR3_top 50 0 rA rB rC uf (by decide)
  change packR3 50 0 rA rB rC uf < 2 ^ (9 * 3) ∧ lengthOf (packR3 50 0 rA rB rC uf / 2 ^ (9 * (3 - 2))) = some 3
  generalize packR3 50 0 rA rB rC uf = w at h
  exact ⟨by omega, lengthOf_low (by omega)⟩

theorem EncodedLength.rlim : ∀ rA rB imm uf, EncodedLength.Statement (.rlim rA rB imm uf) := by
  intro rA rB imm uf
  have h := packRI_top 66 0 rA rB imm uf (by decide)
  change packRI 66 0 rA rB imm uf < 2 ^ (9 * 3) ∧ lengthOf (packRI 66 0 rA rB imm uf / 2 ^ (9 * (3 - 2))) = some 3
  generalize packRI 66 0 rA rB imm uf = w at h
  exact ⟨by omega, lengthOf_low (by omega)⟩

theorem EncodedLength.rr : ∀ rA rB rC uf, EncodedLength.Statement (.rr rA rB rC uf) := by
  intro rA rB rC uf
  have h := packR3_top 49 0 rA rB rC uf (by decide)
  change packR3 49 0 rA rB rC uf < 2 ^ (9 * 3) ∧ lengthOf (packR3 49 0 rA rB rC uf / 2 ^ (9 * (3 - 2))) = some 3
  generalize packR3 49 0 rA rB rC uf = w at h
  exact ⟨by omega, lengthOf_low (by omega)⟩

theorem EncodedLength.rri : ∀ rA rB imm uf, EncodedLength.Statement (.rri rA rB imm uf) := by
  intro rA rB imm uf
  have h := packRI_top 65 0 rA rB imm uf (by decide)
  change packRI 65 0 rA rB imm uf < 2 ^ (9 * 3) ∧ lengthOf (packRI 65 0 rA rB imm uf / 2 ^ (9 * (3 - 2))) = some 3
  generalize packRI 65 0 rA rB imm uf = w at h
  exact ⟨by omega, lengthOf_low (by omega)⟩

theorem EncodedLength.rrm : ∀ rA rB rC uf, EncodedLength.Statement (.rrm rA rB rC uf) := by
  intro rA rB rC uf
  have h := packR3_top 51 0 rA rB rC uf (by decide)
  change packR3 51 0 rA rB rC uf < 2 ^ (9 * 3) ∧ lengthOf (packR3 51 0 rA rB rC uf / 2 ^ (9 * (3 - 2))) = some 3
  generalize packR3 51 0 rA rB rC uf = w at h
  exact ⟨by omega, lengthOf_low (by omega)⟩

theorem EncodedLength.rrim : ∀ rA rB imm uf, EncodedLength.Statement (.rrim rA rB imm uf) := by
  intro rA rB imm uf
  have h := packRI_top 67 0 rA rB imm uf (by decide)
  change packRI 67 0 rA rB imm uf < 2 ^ (9 * 3) ∧ lengthOf (packRI 67 0 rA rB imm uf / 2 ^ (9 * (3 - 2))) = some 3
  generalize packRI 67 0 rA rB imm uf = w at h
  exact ⟨by omega, lengthOf_low (by omega)⟩

theorem EncodedLength.mh : ∀ rA imm, EncodedLength.Statement (.mh rA imm) := by
  intro rA imm
  have h := packMI_top 17 rA imm
  change packMI 17 rA imm < 2 ^ (9 * 3) ∧ lengthOf (packMI 17 rA imm / 2 ^ (9 * (3 - 2))) = some 3
  generalize packMI 17 rA imm = w at h
  exact ⟨by omega, lengthOf_low (by omega)⟩

theorem EncodedLength.ml : ∀ rA imm, EncodedLength.Statement (.ml rA imm) := by
  intro rA imm
  have h := packMI_top 18 rA imm
  change packMI 18 rA imm < 2 ^ (9 * 3) ∧ lengthOf (packMI 18 rA imm / 2 ^ (9 * (3 - 2))) = some 3
  generalize packMI 18 rA imm = w at h
  exact ⟨by omega, lengthOf_low (by omega)⟩

theorem EncodedLength.ms : ∀ rA imm, EncodedLength.Statement (.ms rA imm) := by
  intro rA imm
  have h := packMI_top 19 rA imm
  change packMI 19 rA imm < 2 ^ (9 * 3) ∧ lengthOf (packMI 19 rA imm / 2 ^ (9 * (3 - 2))) = some 3
  generalize packMI 19 rA imm = w at h
  exact ⟨by omega, lengthOf_low (by omega)⟩

theorem EncodedLength.ses : ∀ rA rB, EncodedLength.Statement (.ses rA rB) := by
  intro rA rB
  have h := packR2X_top 2567 rA rB
  change packR2X 2567 rA rB < 2 ^ (9 * 3) ∧ lengthOf (packR2X 2567 rA rB / 2 ^ (9 * (3 - 2))) = some 3
  generalize packR2X 2567 rA rB = w at h
  exact ⟨by omega, lengthOf_extend (by omega) (by omega) (by omega)⟩

theorem EncodedLength.sew : ∀ rA rB, EncodedLength.Statement (.sew rA rB) := by
  intro rA rB
  have h := packR2X_top 2568 rA rB
  change packR2X 2568 rA rB < 2 ^ (9 * 3) ∧ lengthOf (packR2X 2568 rA rB / 2 ^ (9 * (3 - 2))) = some 3
  generalize packR2X 2568 rA rB = w at h
  exact ⟨by omega, lengthOf_extend (by omega) (by omega) (by omega)⟩

theorem EncodedLength.zes : ∀ rA rB, EncodedLength.Statement (.zes rA rB) := by
  intro rA rB
  have h := packR2X_top 2569 rA rB
  change packR2X 2569 rA rB < 2 ^ (9 * 3) ∧ lengthOf (packR2X 2569 rA rB / 2 ^ (9 * (3 - 2))) = some 3
  generalize packR2X 2569 rA rB = w at h
  exact ⟨by omega, lengthOf_extend (by omega) (by omega) (by omega)⟩

theorem EncodedLength.zew : ∀ rA rB, EncodedLength.Statement (.zew rA rB) := by
  intro rA rB
  have h := packR2X_top 2570 rA rB
  change packR2X 2570 rA rB < 2 ^ (9 * 3) ∧ lengthOf (packR2X 2570 rA rB / 2 ^ (9 * (3 - 2))) = some 3
  generalize packR2X 2570 rA rB = w at h
  exact ⟨by omega, lengthOf_extend (by omega) (by omega) (by omega)⟩

theorem EncodedLength.rnd : ∀ rA uf, EncodedLength.Statement (.rnd rA uf) := by
  intro rA uf
  have h := packR2U_top 332 96 rA 0 uf (by decide)
  change packR2U 332 96 rA 0 uf < 2 ^ (9 * 3) ∧ lengthOf (packR2U 332 96 rA 0 uf / 2 ^ (9 * (3 - 2))) = some 3
  generalize packR2U 332 96 rA 0 uf = w at h
  exact ⟨by omega, lengthOf_other (by omega) (by omega)⟩

theorem EncodedLength.rndm : ∀ rA uf, EncodedLength.Statement (.rndm rA uf) := by
  intro rA uf
  have h := packR2U_top 334 96 rA 0 uf (by decide)
  change packR2U 334 96 rA 0 uf < 2 ^ (9 * 3) ∧ lengthOf (packR2U 334 96 rA 0 uf / 2 ^ (9 * (3 - 2))) = some 3
  generalize packR2U 334 96 rA 0 uf = w at h
  exact ⟨by omega, lengthOf_other (by omega) (by omega)⟩

theorem EncodedLength.cm : ∀ rA rB, EncodedLength.Statement (.cm rA rB) := by
  intro rA rB
  have h := packCR2_top 184 rA rB
  change packCR2 184 rA rB < 2 ^ (9 * 2) ∧ lengthOf (packCR2 184 rA rB / 2 ^ (9 * (2 - 2))) = some 2
  generalize packCR2 184 rA rB = w at h
  exact ⟨by omega, lengthOf_compare (by omega) (by omega)⟩

theorem EncodedLength.cmi : ∀ rA imm, EncodedLength.Statement (.cmi rA imm) := by
  intro rA imm
  have h := packCI_top 185 rA imm
  change packCI 185 rA imm < 2 ^ (9 * 3) ∧ lengthOf (packCI 185 rA imm / 2 ^ (9 * (3 - 2))) = some 3
  generalize packCI 185 rA imm = w at h
  exact ⟨by omega, lengthOf_compareImm (by omega) (by omega)⟩

theorem EncodedLength.cmm : ∀ rA rB, EncodedLength.Statement (.cmm rA rB) := by
  intro rA rB
  have h := packCR2_top 188 rA rB
  change packCR2 188 rA rB < 2 ^ (9 * 2) ∧ lengthOf (packCR2 188 rA rB / 2 ^ (9 * (2 - 2))) = some 2
  generalize packCR2 188 rA rB = w at h
  exact ⟨by omega, lengthOf_compare (by omega) (by omega)⟩

theorem EncodedLength.cmim : ∀ rA imm, EncodedLength.Statement (.cmim rA imm) := by
  intro rA imm
  have h := packCI_top 189 rA imm
  change packCI 189 rA imm < 2 ^ (9 * 3) ∧ lengthOf (packCI 189 rA imm / 2 ^ (9 * (3 - 2))) = some 3
  generalize packCI 189 rA imm = w at h
  exact ⟨by omega, lengthOf_compareImm (by omega) (by omega)⟩

theorem EncodedLength.b : ∀ cond offset, EncodedLength.Statement (.b cond offset) := by
  intro cond offset
  have h := packBO_top 48 cond offset
  change packBO 48 cond offset < 2 ^ (9 * 3) ∧ lengthOf (packBO 48 cond offset / 2 ^ (9 * (3 - 2))) = some 3
  generalize packBO 48 cond offset = w at h
  exact ⟨by omega, lengthOf_conditional (by omega)⟩

theorem EncodedLength.br : ∀ cond rA, EncodedLength.Statement (.br cond rA) := by
  intro cond rA
  have h := packBR_top 50 cond rA
  change packBR 50 cond rA < 2 ^ (9 * 2) ∧ lengthOf (packBR 50 cond rA / 2 ^ (9 * (2 - 2))) = some 2
  generalize packBR 50 cond rA = w at h
  exact ⟨by omega, lengthOf_conditionalReg (by omega)⟩

theorem EncodedLength.bra : ∀ location, EncodedLength.Statement (.bra location) := by
  intro location
  have h := packA36_top 452 location
  change packA36 452 location < 2 ^ (9 * 4) ∧ lengthOf (packA36 452 location / 2 ^ (9 * (4 - 2))) = some 4
  generalize packA36 452 location = w at h
  exact ⟨by omega, lengthOf_direct (by omega)⟩

theorem EncodedLength.brr : ∀ offset, EncodedLength.Statement (.brr offset) := by
  intro offset
  have h := packA36_top 448 offset
  change packA36 448 offset < 2 ^ (9 * 4) ∧ lengthOf (packA36 448 offset / 2 ^ (9 * (4 - 2))) = some 4
  generalize packA36 448 offset = w at h
  exact ⟨by omega, lengthOf_direct (by omega)⟩

theorem EncodedLength.c : ∀ cond offset, EncodedLength.Statement (.c cond offset) := by
  intro cond offset
  have h := packBO_top 53 cond offset
  change packBO 53 cond offset < 2 ^ (9 * 3) ∧ lengthOf (packBO 53 cond offset / 2 ^ (9 * (3 - 2))) = some 3
  generalize packBO 53 cond offset = w at h
  exact ⟨by omega, lengthOf_conditional (by omega)⟩

theorem EncodedLength.cr : ∀ cond rA, EncodedLength.Statement (.cr cond rA) := by
  intro cond rA
  have h := packBR_top 55 cond rA
  change packBR 55 cond rA < 2 ^ (9 * 2) ∧ lengthOf (packBR 55 cond rA / 2 ^ (9 * (2 - 2))) = some 2
  generalize packBR 55 cond rA = w at h
  exact ⟨by omega, lengthOf_conditionalReg (by omega)⟩

theorem EncodedLength.caa : ∀ location, EncodedLength.Statement (.caa location) := by
  intro location
  have h := packA36_top 460 location
  change packA36 460 location < 2 ^ (9 * 4) ∧ lengthOf (packA36 460 location / 2 ^ (9 * (4 - 2))) = some 4
  generalize packA36 460 location = w at h
  exact ⟨by omega, lengthOf_direct (by omega)⟩

theorem EncodedLength.car : ∀ offset, EncodedLength.Statement (.car offset) := by
  intro offset
  have h := packA36_top 456 offset
  change packA36 456 offset < 2 ^ (9 * 4) ∧ lengthOf (packA36 456 offset / 2 ^ (9 * (4 - 2))) = some 4
  generalize packA36 456 offset = w at h
  exact ⟨by omega, lengthOf_direct (by omega)⟩

theorem EncodedLength.re : EncodedLength.Statement (.re) := by
  change 163840 < 2 ^ (9 * 2) ∧ lengthOf ((163840) / 2 ^ (9 * (2 - 2))) = some 2
  exact ⟨by omega, lengthOf_system (by omega) (by omega) (by omega)⟩

theorem EncodedLength.lds : ∀ rA rB count mode offset, EncodedLength.Statement (.lds rA rB count mode offset) := by
  intro rA rB count mode offset
  have h := packLS_top 84 rA rB count mode offset
  change packLS 84 rA rB count mode offset < 2 ^ (9 * 6) ∧ lengthOf (packLS 84 rA rB count mode offset / 2 ^ (9 * (6 - 2))) = some 6
  generalize packLS 84 rA rB count mode offset = w at h
  exact ⟨by omega, lengthOf_move (by omega)⟩

theorem EncodedLength.ldw : ∀ rA rB count mode offset, EncodedLength.Statement (.ldw rA rB count mode offset) := by
  intro rA rB count mode offset
  have h := packLS_top 85 rA rB count mode offset
  change packLS 85 rA rB count mode offset < 2 ^ (9 * 6) ∧ lengthOf (packLS 85 rA rB count mode offset / 2 ^ (9 * (6 - 2))) = some 6
  generalize packLS 85 rA rB count mode offset = w at h
  exact ⟨by omega, lengthOf_move (by omega)⟩

theorem EncodedLength.ldt : ∀ rA rB count mode offset, EncodedLength.Statement (.ldt rA rB count mode offset) := by
  intro rA rB count mode offset
  have h := packLS_top 86 rA rB count mode offset
  change packLS 86 rA rB count mode offset < 2 ^ (9 * 6) ∧ lengthOf (packLS 86 rA rB count mode offset / 2 ^ (9 * (6 - 2))) = some 6
  generalize packLS 86 rA rB count mode offset = w at h
  exact ⟨by omega, lengthOf_move (by omega)⟩

theorem EncodedLength.sts : ∀ rA rB count mode offset, EncodedLength.Statement (.sts rA rB count mode offset) := by
  intro rA rB count mode offset
  have h := packLS_top 88 rA rB count mode offset
  change packLS 88 rA rB count mode offset < 2 ^ (9 * 6) ∧ lengthOf (packLS 88 rA rB count mode offset / 2 ^ (9 * (6 - 2))) = some 6
  generalize packLS 88 rA rB count mode offset = w at h
  exact ⟨by omega, lengthOf_move (by omega)⟩

theorem EncodedLength.stw : ∀ rA rB count mode offset, EncodedLength.Statement (.stw rA rB count mode offset) := by
  intro rA rB count mode offset
  have h := packLS_top 89 rA rB count mode offset
  change packLS 89 rA rB count mode offset < 2 ^ (9 * 6) ∧ lengthOf (packLS 89 rA rB count mode offset / 2 ^ (9 * (6 - 2))) = some 6
  generalize packLS 89 rA rB count mode offset = w at h
  exact ⟨by omega, lengthOf_move (by omega)⟩

theorem EncodedLength.stt : ∀ rA rB count mode offset, EncodedLength.Statement (.stt rA rB count mode offset) := by
  intro rA rB count mode offset
  have h := packLS_top 90 rA rB count mode offset
  change packLS 90 rA rB count mode offset < 2 ^ (9 * 6) ∧ lengthOf (packLS 90 rA rB count mode offset / 2 ^ (9 * (6 - 2))) = some 6
  generalize packLS 90 rA rB count mode offset = w at h
  exact ⟨by omega, lengthOf_move (by omega)⟩

theorem EncodedLength.dmt : ∀ rA rB rC, EncodedLength.Statement (.dmt rA rB rC) := by
  intro rA rB rC
  have h := packR3_top 52 0 rA rB rC false (by decide)
  change packR3 52 0 rA rB rC false < 2 ^ (9 * 3) ∧ lengthOf (packR3 52 0 rA rB rC false / 2 ^ (9 * (3 - 2))) = some 3
  generalize packR3 52 0 rA rB rC false = w at h
  exact ⟨by omega, lengthOf_low (by omega)⟩

theorem EncodedLength.adf : ∀ rA rB rC uf, EncodedLength.Statement (.adf rA rB rC uf) := by
  intro rA rB rC uf
  have h := packR3_top 1 0 rA rB rC uf (by decide)
  change packR3 1 0 rA rB rC uf < 2 ^ (9 * 3) ∧ lengthOf (packR3 1 0 rA rB rC uf / 2 ^ (9 * (3 - 2))) = some 3
  generalize packR3 1 0 rA rB rC uf = w at h
  exact ⟨by omega, lengthOf_low (by omega)⟩

theorem EncodedLength.adfm : ∀ rA rB rC uf, EncodedLength.Statement (.adfm rA rB rC uf) := by
  intro rA rB rC uf
  have h := packR3_top 3 0 rA rB rC uf (by decide)
  change packR3 3 0 rA rB rC uf < 2 ^ (9 * 3) ∧ lengthOf (packR3 3 0 rA rB rC uf / 2 ^ (9 * (3 - 2))) = some 3
  generalize packR3 3 0 rA rB rC uf = w at h
  exact ⟨by omega, lengthOf_low (by omega)⟩

theorem EncodedLength.sbf : ∀ rA rB rC uf, EncodedLength.Statement (.sbf rA rB rC uf) := by
  intro rA rB rC uf
  have h := packR3_top 5 0 rA rB rC uf (by decide)
  change packR3 5 0 rA rB rC uf < 2 ^ (9 * 3) ∧ lengthOf (packR3 5 0 rA rB rC uf / 2 ^ (9 * (3 - 2))) = some 3
  generalize packR3 5 0 rA rB rC uf = w at h
  exact ⟨by omega, lengthOf_low (by omega)⟩

theorem EncodedLength.sbfm : ∀ rA rB rC uf, EncodedLength.Statement (.sbfm rA rB rC uf) := by
  intro rA rB rC uf
  have h := packR3_top 7 0 rA rB rC uf (by decide)
  change packR3 7 0 rA rB rC uf < 2 ^ (9 * 3) ∧ lengthOf (packR3 7 0 rA rB rC uf / 2 ^ (9 * (3 - 2))) = some 3
  generalize packR3 7 0 rA rB rC uf = w at h
  exact ⟨by omega, lengthOf_low (by omega)⟩

theorem EncodedLength.muf : ∀ rA rB rC uf, EncodedLength.Statement (.muf rA rB rC uf) := by
  intro rA rB rC uf
  have h := packR3_top 9 0 rA rB rC uf (by decide)
  change packR3 9 0 rA rB rC uf < 2 ^ (9 * 3) ∧ lengthOf (packR3 9 0 rA rB rC uf / 2 ^ (9 * (3 - 2))) = some 3
  generalize packR3 9 0 rA rB rC uf = w at h
  exact ⟨by omega, lengthOf_low (by omega)⟩

theorem EncodedLength.mufm : ∀ rA rB rC uf, EncodedLength.Statement (.mufm rA rB rC uf) := by
  intro rA rB rC uf
  have h := packR3_top 11 0 rA rB rC uf (by decide)
  change packR3 11 0 rA rB rC uf < 2 ^ (9 * 3) ∧ lengthOf (packR3 11 0 rA rB rC uf / 2 ^ (9 * (3 - 2))) = some 3
  generalize packR3 11 0 rA rB rC uf = w at h
  exact ⟨by omega, lengthOf_low (by omega)⟩

theorem EncodedLength.dvf : ∀ rA rB rC uf, EncodedLength.Statement (.dvf rA rB rC uf) := by
  intro rA rB rC uf
  have h := packR3_top 13 0 rA rB rC uf (by decide)
  change packR3 13 0 rA rB rC uf < 2 ^ (9 * 3) ∧ lengthOf (packR3 13 0 rA rB rC uf / 2 ^ (9 * (3 - 2))) = some 3
  generalize packR3 13 0 rA rB rC uf = w at h
  exact ⟨by omega, lengthOf_low (by omega)⟩

theorem EncodedLength.dvfm : ∀ rA rB rC uf, EncodedLength.Statement (.dvfm rA rB rC uf) := by
  intro rA rB rC uf
  have h := packR3_top 15 0 rA rB rC uf (by decide)
  change packR3 15 0 rA rB rC uf < 2 ^ (9 * 3) ∧ lengthOf (packR3 15 0 rA rB rC uf / 2 ^ (9 * (3 - 2))) = some 3
  generalize packR3 15 0 rA rB rC uf = w at h
  exact ⟨by omega, lengthOf_low (by omega)⟩

theorem EncodedLength.mdf : ∀ rA rB rC uf, EncodedLength.Statement (.mdf rA rB rC uf) := by
  intro rA rB rC uf
  have h := packR3_top 17 0 rA rB rC uf (by decide)
  change packR3 17 0 rA rB rC uf < 2 ^ (9 * 3) ∧ lengthOf (packR3 17 0 rA rB rC uf / 2 ^ (9 * (3 - 2))) = some 3
  generalize packR3 17 0 rA rB rC uf = w at h
  exact ⟨by omega, lengthOf_low (by omega)⟩

theorem EncodedLength.mdfm : ∀ rA rB rC uf, EncodedLength.Statement (.mdfm rA rB rC uf) := by
  intro rA rB rC uf
  have h := packR3_top 19 0 rA rB rC uf (by decide)
  change packR3 19 0 rA rB rC uf < 2 ^ (9 * 3) ∧ lengthOf (packR3 19 0 rA rB rC uf / 2 ^ (9 * (3 - 2))) = some 3
  generalize packR3 19 0 rA rB rC uf = w at h
  exact ⟨by omega, lengthOf_low (by omega)⟩

theorem EncodedLength.cmf : ∀ rA rB, EncodedLength.Statement (.cmf rA rB) := by
  intro rA rB
  have h := packCR2_top 186 rA rB
  change packCR2 186 rA rB < 2 ^ (9 * 2) ∧ lengthOf (packCR2 186 rA rB / 2 ^ (9 * (2 - 2))) = some 2
  generalize packCR2 186 rA rB = w at h
  exact ⟨by omega, lengthOf_compare (by omega) (by omega)⟩

theorem EncodedLength.cmfm : ∀ rA rB, EncodedLength.Statement (.cmfm rA rB) := by
  intro rA rB
  have h := packCR2_top 190 rA rB
  change packCR2 190 rA rB < 2 ^ (9 * 2) ∧ lengthOf (packCR2 190 rA rB / 2 ^ (9 * (2 - 2))) = some 2
  generalize packCR2 190 rA rB = w at h
  exact ⟨by omega, lengthOf_compare (by omega) (by omega)⟩

theorem EncodedLength.ngf : ∀ rA rB uf, EncodedLength.Statement (.ngf rA rB uf) := by
  intro rA rB uf
  have h := packR2U_top 333 0 rA rB uf (by decide)
  change packR2U 333 0 rA rB uf < 2 ^ (9 * 3) ∧ lengthOf (packR2U 333 0 rA rB uf / 2 ^ (9 * (3 - 2))) = some 3
  generalize packR2U 333 0 rA rB uf = w at h
  exact ⟨by omega, lengthOf_other (by omega) (by omega)⟩

theorem EncodedLength.ngfm : ∀ rA rB uf, EncodedLength.Statement (.ngfm rA rB uf) := by
  intro rA rB uf
  have h := packR2U_top 335 0 rA rB uf (by decide)
  change packR2U 335 0 rA rB uf < 2 ^ (9 * 3) ∧ lengthOf (packR2U 335 0 rA rB uf / 2 ^ (9 * (3 - 2))) = some 3
  generalize packR2U 335 0 rA rB uf = w at h
  exact ⟨by omega, lengthOf_other (by omega) (by omega)⟩

theorem EncodedLength.itf : ∀ rA rB, EncodedLength.Statement (.itf rA rB) := by
  intro rA rB
  have h := packR2C_top 324 rA rB
  change packR2C 324 rA rB < 2 ^ (9 * 3) ∧ lengthOf (packR2C 324 rA rB / 2 ^ (9 * (3 - 2))) = some 3
  generalize packR2C 324 rA rB = w at h
  exact ⟨by omega, lengthOf_other (by omega) (by omega)⟩

theorem EncodedLength.itfm : ∀ rA rB, EncodedLength.Statement (.itfm rA rB) := by
  intro rA rB
  have h := packR2C_top 326 rA rB
  change packR2C 326 rA rB < 2 ^ (9 * 3) ∧ lengthOf (packR2C 326 rA rB / 2 ^ (9 * (3 - 2))) = some 3
  generalize packR2C 326 rA rB = w at h
  exact ⟨by omega, lengthOf_other (by omega) (by omega)⟩

theorem EncodedLength.fti : ∀ rA rB, EncodedLength.Statement (.fti rA rB) := by
  intro rA rB
  have h := packR2C_top 325 rA rB
  change packR2C 325 rA rB < 2 ^ (9 * 3) ∧ lengthOf (packR2C 325 rA rB / 2 ^ (9 * (3 - 2))) = some 3
  generalize packR2C 325 rA rB = w at h
  exact ⟨by omega, lengthOf_other (by omega) (by omega)⟩

theorem EncodedLength.ftim : ∀ rA rB, EncodedLength.Statement (.ftim rA rB) := by
  intro rA rB
  have h := packR2C_top 327 rA rB
  change packR2C 327 rA rB < 2 ^ (9 * 3) ∧ lengthOf (packR2C 327 rA rB / 2 ^ (9 * (3 - 2))) = some 3
  generalize packR2C 327 rA rB = w at h
  exact ⟨by omega, lengthOf_other (by omega) (by omega)⟩

theorem EncodedLength.ei : ∀ rA, EncodedLength.Statement (.ei rA) := by
  intro rA
  have h := packR1_top 2564 rA
  change packR1 2564 rA < 2 ^ (9 * 2) ∧ lengthOf (packR1 2564 rA / 2 ^ (9 * (2 - 2))) = some 2
  generalize packR1 2564 rA = w at h
  exact ⟨by omega, lengthOf_system (by omega) (by omega) (by omega)⟩

theorem EncodedLength.di : ∀ rA, EncodedLength.Statement (.di rA) := by
  intro rA
  have h := packR1_top 2565 rA
  change packR1 2565 rA < 2 ^ (9 * 2) ∧ lengthOf (packR1 2565 rA / 2 ^ (9 * (2 - 2))) = some 2
  generalize packR1 2565 rA = w at h
  exact ⟨by omega, lengthOf_system (by omega) (by omega) (by omega)⟩

theorem EncodedLength.ht : EncodedLength.Statement (.ht) := by
  change 164032 < 2 ^ (9 * 2) ∧ lengthOf ((164032) / 2 ^ (9 * (2 - 2))) = some 2
  exact ⟨by omega, lengthOf_system (by omega) (by omega) (by omega)⟩

theorem EncodedLength.ir : EncodedLength.Statement (.ir) := by
  change 163904 < 2 ^ (9 * 2) ∧ lengthOf ((163904) / 2 ^ (9 * (2 - 2))) = some 2
  exact ⟨by omega, lengthOf_system (by omega) (by omega) (by omega)⟩

theorem EncodedLength.rf : ∀ rA, EncodedLength.Statement (.rf rA) := by
  intro rA
  have h := packR1_top 2572 rA
  change packR1 2572 rA < 2 ^ (9 * 2) ∧ lengthOf (packR1 2572 rA / 2 ^ (9 * (2 - 2))) = some 2
  generalize packR1 2572 rA = w at h
  exact ⟨by omega, lengthOf_system (by omega) (by omega) (by omega)⟩

theorem EncodedLength.sf : ∀ rA, EncodedLength.Statement (.sf rA) := by
  intro rA
  have h := packR1_top 2571 rA
  change packR1 2571 rA < 2 ^ (9 * 2) ∧ lengthOf (packR1 2571 rA / 2 ^ (9 * (2 - 2))) = some 2
  generalize packR1 2571 rA = w at h
  exact ⟨by omega, lengthOf_system (by omega) (by omega) (by omega)⟩

theorem EncodedLength.smp : ∀ rA rB prot, EncodedLength.Statement (.smp rA rB prot) := by
  intro rA rB prot
  change 82 * 2 ^ 20 + rA.val * 2 ^ 15 + rB.val * 2 ^ 10 + 2 ^ 9 + prot.toNat * 2 ^ 7 < 2 ^ (9 * 3) ∧ lengthOf ((82 * 2 ^ 20 + rA.val * 2 ^ 15 + rB.val * 2 ^ 10 + 2 ^ 9 + prot.toNat * 2 ^ 7) / 2 ^ (9 * (3 - 2))) = some 3
  exact ⟨by omega, lengthOf_other (by omega) (by omega)⟩

theorem EncodedLength.rmp : ∀ rA rB, EncodedLength.Statement (.rmp rA rB) := by
  intro rA rB
  change 82 * 2 ^ 20 + rA.val * 2 ^ 15 + rB.val * 2 ^ 10 < 2 ^ (9 * 3) ∧ lengthOf ((82 * 2 ^ 20 + rA.val * 2 ^ 15 + rB.val * 2 ^ 10) / 2 ^ (9 * (3 - 2))) = some 3
  exact ⟨by omega, lengthOf_other (by omega) (by omega)⟩

theorem EncodedLength.wt : EncodedLength.Statement (.wt) := by
  change 163968 < 2 ^ (9 * 2) ∧ lengthOf ((163968) / 2 ^ (9 * (2 - 2))) = some 2
  exact ⟨by omega, lengthOf_system (by omega) (by omega) (by omega)⟩

theorem EncodedLength.dbrk : EncodedLength.Statement (.dbrk) := by
  change 262143 < 2 ^ (9 * 2) ∧ lengthOf ((262143) / 2 ^ (9 * (2 - 2))) = some 2
  exact ⟨by omega, lengthOf_conditionalReg (by omega)⟩

end Sys2Proof.Laws
end

