-- ==== Sys2Proof/Laws/Trap.lean ====
section
/-! SUPPORT. Trap entry and the return from it, piece by piece. -/

namespace Sys2Proof.Machine

/-! ## Sequences of accesses that succeed -/

/-- Bytes that were read could be read. -/
theorem State.readable_of_readBytes (s : State) (k) (n : Nat) (a : Addr) (l) (h : s.readBytes k n a = .ok l) :
    ∀ i < n, ∃ b, s.Readable k (a + BitVec.ofNat 27 i) b := by
  obtain ⟨h1, h2⟩ := State.readBytes_ok h
  exact fun i hi => ⟨_, h2 i (by omega)⟩

/-- Bytes that were written could be written. -/
theorem State.writable_of_writeBytes (s : State) (a : Addr) (l : List Byte) (t) (h : s.writeBytes a l = .done t) :
    ∀ i < l.length, s.Writable (a + BitVec.ofNat 27 i) := by
  induction l generalizing s a with
  | nil => intro i hi; simp at hi
  | cons b l ih =>
    simp only [State.writeBytes] at h
    rcases s.writeByte_cases a b with ⟨hw, e⟩ | e | e <;> rw [e] at h <;> simp only [Run.andThen] at h
    · intro i hi
      cases i with
      | zero => simpa using hw
      | succ i =>
        have := ih _ _ h i (by simpa using hi)
        rw [show (a + 1 : Addr) = a + BitVec.ofNat 27 1 from rfl, addr_add, Nat.add_comm 1] at this
        exact this
    · cases h
    · cases h

/-- A sequence of reads that meets a byte it cannot read ends with that byte's own answer. -/
theorem State.readBytes_stop {s : State} {k : AccessKind} {n m : Nat} {a : Addr} (hm : m < n)
    (h : ∀ i < m, ∃ b, s.Readable k (a + BitVec.ofNat 27 i) b)
    (hr : ∀ b, ¬ s.Readable k (a + BitVec.ofNat 27 m) b) :
    s.readBytes k n a = (s.readByte k (a + BitVec.ofNat 27 m)).bind fun _ => .ok [] := by
  induction m generalizing a n with
  | zero =>
    obtain ⟨n, rfl⟩ : ∃ k, n = k + 1 := ⟨n - 1, by omega⟩
    rw [show a + BitVec.ofNat 27 0 = a by simp] at *
    simp only [State.readBytes]
    cases hb : s.readByte k a with
    | ok b => exact absurd (State.readByte_ok_iff.1 hb) (hr b)
    | _ => rfl
  | succ m ih =>
    obtain ⟨n, rfl⟩ : ∃ k, n = k + 1 := ⟨n - 1, by omega⟩
    obtain ⟨b, h0⟩ := h 0 (by omega)
    rw [show a + BitVec.ofNat 27 0 = a by simp] at h0
    have e (i : Nat) : a + BitVec.ofNat 27 (i + 1) = a + 1 + BitVec.ofNat 27 i := by
      rw [show (a + 1 : Addr) = a + BitVec.ofNat 27 1 from rfl, addr_add, Nat.add_comm 1]
    rw [e] at hr ⊢
    have := ih (n := n) (a := a + 1) (by omega) (fun i hi => by
      have := h (i + 1) (by omega)
      rwa [e] at this) hr
    simp only [State.readBytes, State.readByte_of_readable h0, Access.bind, this]
    cases hb : s.readByte k (a + 1 + BitVec.ofNat 27 m) <;> simp
    exact absurd (State.readByte_ok_iff.1 hb) (hr _)

/-- Why a byte cannot be read, and what reading it answers. -/
theorem State.readByte_denied {s : State} {k : AccessKind} {a : Addr} (hp : s.plain a = true)
    (hd : s.allows k a = false) : s.readByte k a = .denied k a := by
  simp [State.readByte, hp, hd]

theorem State.readByte_region {s : State} {k : AccessKind} {a : Addr} (hp : s.plain a = false) :
    s.readByte k a = .refused (s.regionRefusal a) := by
  simp [State.readByte, hp]

theorem State.readByte_unwritten {s : State} {k : AccessKind} {a : Addr} (hp : s.plain a = true)
    (hd : s.allows k a = true) (hs : s.stale k a = false) (hb : s.mem.byteAt a = none) :
    s.readByte k a = .stopped (.unwrittenByte a) := by
  simp [State.readByte, hp, hd, hs, hb]

theorem State.readByte_stale {s : State} {k : AccessKind} {a : Addr} (hp : s.plain a = true)
    (hd : s.allows k a = true) (hs : s.stale k a = true) : s.readByte k a = .refused (.staleFetch a) := by
  simp [State.readByte, hp, hd, hs]

/-- Only a fetch can be stale. -/
@[simp] theorem State.stale_read (s : State) (a : Addr) : s.stale .read a = false := rfl

/-! ## The frame -/

/-- The registers after ST is lowered. -/
theorem State.x_lowerST (s : State) (q : RegNo) :
    s.lowerST.x q = if q = s.stReg ∧ s.stackUp = false then s.x s.stReg - frameSize else s.x q := by
  unfold State.lowerST
  split
  · rename_i h; simp [h]
  · rename_i h; rw [State.x_setX]; simp [h]

/-- A frame has 33 Tris. -/
theorem frame_len (s : State) (ret) : (s.frameOf ret).length = 33 := by simp [State.frameOf]

/-- Tri k of a frame. -/
theorem frame_get (s : State) (ret : Addr) (k : Nat) (hk : k < 33) :
    (s.frameOf ret)[k]'(by rw [frame_len]; exact hk) =
      if k = s.pcReg.val then ret else if k = 32 then s.flags else s.x (Fin.ofNat 32 k) := by
  unfold State.frameOf
  have hpc := s.pcReg.isLt
  by_cases h : k < 32
  · rw [List.getElem_append_left (by simpa using h)]
    simp only [List.getElem_map, List.getElem_finRange]
    have e : (Fin.cast (by simp) (⟨k, by simpa using h⟩ : Fin (List.finRange 32).length) : Fin 32) = Fin.ofNat 32 k := by
      apply Fin.ext; simp [Fin.ofNat, Nat.mod_eq_of_lt h]
    by_cases hp : k = s.pcReg.val
    · subst hp; simp
    · rw [if_neg (by intro e2; apply hp; have := congrArg Fin.val e2; simpa using this), if_neg hp, if_neg (by omega)]
      congr 1
  · have : k = 32 := by omega
    subst this
    rw [if_neg (by omega)]
    simp

/-! ## Entering the handler -/

/-- Entering the handler clears the pending bit of an asynchronous interrupt. -/
theorem State.enterHandler_pending (s : State) (n h) : (s.enterHandler n h).pending =
    if isAsync n then s.pending &&& ~~~(BitVec.twoPow 9 n.val) else s.pending := by
  unfold State.enterHandler State.clearPending; split <;> simp

/-- The registers after ST is raised. -/
theorem State.x_raiseST (s : State) (q : RegNo) :
    s.raiseST.x q = if q = s.stReg ∧ s.stackUp = true then s.x s.stReg + frameSize else s.x q := by
  unfold State.raiseST
  split
  · rename_i h; rw [State.x_setX]; simp [h]
  · rename_i h; simp [h]

/-- The registers in the handler. -/
theorem State.x_enterHandler (s : State) (n h) (q : RegNo) : (s.enterHandler n h).x q =
    if q = s.pcReg then h else if q = s.flagsReg then s.entryFlags
    else if q = s.stReg ∧ s.stackUp = true then s.x s.stReg + frameSize else s.x q := by
  have e : (s.enterHandler n h).x q = (((s.raiseST.clearPending n).setFlags s.entryFlags).jump h).x q := State.x_congr rfl q
  rw [e, State.x_jump, State.x_setFlags]
  simp only [State.setFlags_pcReg, State.clearPending_pcReg, State.raiseST_pcReg, State.clearPending_flagsReg,
    State.raiseST_flagsReg, State.x_clearPending]
  rw [State.x_raiseST]

end Sys2Proof.Machine
end

