-- ==== Sys2Proof/Tests/Slice0.lean ====
section
/-! SUPPORT. Tests on fixed values, taken from the spec's worked examples (95_test_vectors.md, rows V and T), and a witness for
the hypotheses of each obligation. -/

namespace Sys2Proof.Tests

open Sys2Proof Sys2Proof.Machine Sys2Proof.Machine.Claim

/-! ## Helpers -/

/-- The outcome is a next state of which `p` holds. -/
def nextIs (o : Out) (p : State → Bool) : Bool :=
  match o with
  | .next t => p t
  | _ => false

/-- The outcome is the refusal of a write to the program counter. -/
def refusedR31 (o : Out) : Bool :=
  match o with
  | .refused .writeToR31 => true
  | _ => false

/-- A next state there is. -/
theorem next_of {o : Out} {p : State → Bool} (h : nextIs o p = true) : ∃ t, o = .next t := by
  cases o with
  | next t => exact ⟨t, rfl⟩
  | fault f => exact absurd h (by simp [nextIs])
  | refused r => exact absurd h (by simp [nextIs])

/-- A small state: some registers, FLAGS, pc, memory; pages 4, 8 and 12 can be read and written, page 0 read and fetched. -/
def small (regs : List (RegNo × Word)) (flags pc : Word) (mem : Memory) : State :=
  let s : State := { State.reset with mem := mem, prot := [(0, 3#2), (4, 2#2), (8, 2#2), (12, 2#2)] }
  regs.foldl (fun t p => t.setX p.1 p.2) ((s.setFlags flags).jump pc)

/-- One instruction leads to these registers, FLAGS where they are not drawn, pc and memory. -/
def leads (i : Instr) (s : State) (regs : List (RegNo × Word)) (flags : Option Word) (pc : Word) (mem : Memory) : Bool :=
  nextIs (exec i s) fun t =>
    t.mem == mem && (List.finRange 32).all fun q => (flags.isNone && q == 30) || t.x q == (small regs (flags.getD 0#27) pc []).x q

/-- One instruction raises the exception (three bytes; by default the length does not matter). -/
def raisesIn (i : Instr) (s : State) (e : Exc) : Bool := nextIs (exec i s) fun t => t == s.takeException e (some 3)

/-- The bytes decode to the instruction. -/
def reads (bytes : List Byte) (i : Instr) : Bool := decide (decode .default bytes = .ok (i, []))

/-- The bytes are rejected by this name. -/
def rejects (bytes : List Byte) (e : DecodeError) : Bool := decide (decode .default bytes = .error e)

/-! ## Well-formedness: each check refuses an ill-formed term (46_branch_call.md R330, 47_load_store.md R350) -/

theorem test_wellFormed_refuses_condition :
    [Instr.b 14 0, .br 14 0, .c 14 0, .cr 14 0].all (fun i => !WellFormed .default i) = true := by decide

theorem test_wellFormed_refuses_adjust :
    [Instr.lds 0 0 0 3 0, .ldw 0 0 0 3 0, .ldt 0 0 0 3 0, .sts 0 0 0 3 0, .stw 0 0 0 3 0, .stt 0 0 0 3 0].all
      (fun i => !WellFormed .default i) = true := by decide

theorem test_wellFormed_accepts :
    [Instr.b 15 0, .br 13 0, .c 0 0, .cr 10 0, .lds 0 0 0 2 0, .stt 31 31 31 1 0, .dbrk].all (WellFormed .default) = true := by decide

/-! ## Decoding: one word of each constructor, from 95_test_vectors.md -/

set_option maxRecDepth 8000 in
theorem test_decode_addSubtract1 :
    [
      reads [0x044, 0x000, 0x061] (.ad 1 2 3 true),
      reads [0x043, 0x000, 0x1FB] (.adi 1 1 0x7F#7 true),
      reads [0x142, 0x008, 0x061] (.adm 5 1 3 true),
      reads [0x042, 0x008, 0x00B] (.adim 1 1 1#7 true),
      reads [0x044, 0x080, 0x061] (.adc 1 2 3 true),
      reads [0x044, 0x080, 0x003] (.adci 1 2 0#7 true),
      reads [0x142, 0x088, 0x061] (.adcm 5 1 3 true),
      reads [0x043, 0x088, 0x1FB] (.adcim 1 1 0x7F#7 true),
      reads [0x044, 0x010, 0x061] (.sb 1 2 3 true),
      reads [0x084, 0x010, 0x00B] (.sbi 2 2 1#7 true),
      reads [0x142, 0x018, 0x061] (.sbm 5 1 3 true),
      reads [0x042, 0x018, 0x00B] (.sbim 1 1 1#7 true),
      reads [0x044, 0x090, 0x061] (.sbc 1 2 3 true),
      reads [0x044, 0x090, 0x003] (.sbci 1 2 0#7 true)].all id = true := by decide

set_option maxRecDepth 8000 in
theorem test_decode_addSubtract2 :
    [
      reads [0x142, 0x098, 0x061] (.sbcm 5 1 3 true),
      reads [0x042, 0x098, 0x02B] (.sbcim 1 1 5#7 true)].all id = true := by decide

set_option maxRecDepth 8000 in
theorem test_decode_multiplyDivide1 :
    [
      reads [0x044, 0x020, 0x061] (.mu 1 2 3 true),
      reads [0x045, 0x020, 0x1FA] (.mui 1 2 0x7F#7 false),
      reads [0x142, 0x028, 0x061] (.mum 5 1 3 true),
      reads [0x042, 0x028, 0x013] (.muim 1 1 2#7 true),
      reads [0x044, 0x020, 0x065] (.mus 1 2 3 true),
      reads [0x045, 0x020, 0x1EF] (.muis 1 2 0x7D#7 true),
      reads [0x142, 0x028, 0x065] (.musm 5 1 3 true),
      reads [0x043, 0x028, 0x1FF] (.muism 1 1 0x7F#7 true),
      reads [0x044, 0x030, 0x061] (.dv 1 2 3 true),
      reads [0x044, 0x030, 0x053] (.dvi 1 2 0xA#7 true),
      reads [0x142, 0x038, 0x061] (.dvm 5 1 3 true),
      reads [0x042, 0x038, 0x01B] (.dvim 1 1 3#7 true),
      reads [0x044, 0x030, 0x065] (.dvs 1 2 3 true),
      reads [0x045, 0x030, 0x1FF] (.dvis 1 2 0x7F#7 true)].all id = true := by decide

set_option maxRecDepth 8000 in
theorem test_decode_multiplyDivide2 :
    [
      reads [0x142, 0x038, 0x065] (.dvsm 5 1 3 true),
      reads [0x043, 0x038, 0x1F7] (.dvism 1 1 0x7E#7 true),
      reads [0x044, 0x040, 0x061] (.md 1 2 3 true),
      reads [0x044, 0x040, 0x003] (.mdi 1 2 0#7 true),
      reads [0x142, 0x048, 0x061] (.mdm 5 1 3 true),
      reads [0x042, 0x048, 0x03B] (.mdim 1 1 7#7 true),
      reads [0x044, 0x040, 0x065] (.mds 1 2 3 true),
      reads [0x045, 0x040, 0x1EF] (.mdis 1 2 0x7D#7 true),
      reads [0x142, 0x048, 0x065] (.mdsm 5 1 3 true),
      reads [0x042, 0x048, 0x007] (.mdism 1 1 0#7 true)].all id = true := by decide

set_option maxRecDepth 8000 in
theorem test_decode_logic1 :
    [
      reads [0x044, 0x050, 0x061] (.an 1 2 3 true),
      reads [0x045, 0x050, 0x1FB] (.ani 1 2 0x7F#7 true),
      reads [0x142, 0x058, 0x061] (.anm 5 1 3 true),
      reads [0x044, 0x060, 0x061] (.or 1 2 3 true),
      reads [0x045, 0x060, 0x002] (.ori 1 2 0x40#7 false),
      reads [0x142, 0x068, 0x061] (.orm 5 1 3 true),
      reads [0x042, 0x070, 0x021] (.xr 1 1 1 true),
      reads [0x045, 0x070, 0x1FB] (.xri 1 2 0x7F#7 true),
      reads [0x142, 0x078, 0x061] (.xrm 5 1 3 true),
      reads [0x011, 0x14C, 0x081] (.bf 1 2 true),
      reads [0x050, 0x14E, 0x181] (.bfm 5 1 true),
      reads [0x011, 0x14C, 0x001] (.ng 1 2 true),
      reads [0x050, 0x14E, 0x101] (.ngm 5 1 true),
      reads [0x011, 0x14C, 0x041] (.nt 1 2 true)].all id = true := by decide

set_option maxRecDepth 8000 in
theorem test_decode_logic2 :
    [
      reads [0x050, 0x14E, 0x141] (.ntm 5 1 true)].all id = true := by decide

set_option maxRecDepth 8000 in
theorem test_decode_shift1 :
    [
      reads [0x044, 0x0A0, 0x061] (.sl 1 2 3 true),
      reads [0x044, 0x0E0, 0x021] (.sli 1 2 4#7 true),
      reads [0x142, 0x0A8, 0x061] (.slm 5 1 3 true),
      reads [0x042, 0x0E8, 0x049] (.slim 1 1 9#7 true),
      reads [0x044, 0x0A4, 0x061] (.sr 1 2 3 true),
      reads [0x044, 0x0E4, 0x009] (.sri 1 2 1#7 true),
      reads [0x142, 0x0AC, 0x061] (.srm 5 1 3 true),
      reads [0x042, 0x0EC, 0x049] (.srim 1 1 9#7 true),
      reads [0x044, 0x0B4, 0x061] (.sa 1 2 3 true),
      reads [0x044, 0x0F4, 0x021] (.sai 1 2 4#7 true),
      reads [0x142, 0x0BC, 0x061] (.sam 5 1 3 true),
      reads [0x042, 0x0FC, 0x009] (.saim 1 1 1#7 true),
      reads [0x044, 0x0C0, 0x061] (.rl 1 2 3 true),
      reads [0x044, 0x100, 0x049] (.rli 1 2 9#7 true)].all id = true := by decide

set_option maxRecDepth 8000 in
theorem test_decode_shift2 :
    [
      reads [0x142, 0x0C8, 0x061] (.rlm 5 1 3 true),
      reads [0x042, 0x108, 0x1B1] (.rlim 1 1 0x36#7 true),
      reads [0x044, 0x0C4, 0x061] (.rr 1 2 3 true),
      reads [0x044, 0x104, 0x049] (.rri 1 2 9#7 true),
      reads [0x142, 0x0CC, 0x061] (.rrm 5 1 3 true),
      reads [0x042, 0x10C, 0x1B9] (.rrim 1 1 0x37#7 true)].all id = true := by decide

set_option maxRecDepth 8000 in
theorem test_decode_move :
    [
      reads [0x1FF, 0x110, 0x1FF] (.mh 1 0x1FFFF#17),
      reads [0x100, 0x120, 0x000] (.ml 1 0#17),
      reads [0x1FF, 0x130, 0x1FF] (.ms 1 0x1FFFF#17),
      reads [0x1C2, 0x140, 0x040] (.ses 1 2),
      reads [0x002, 0x141, 0x040] (.sew 1 2),
      reads [0x042, 0x141, 0x040] (.zes 1 2),
      reads [0x082, 0x141, 0x040] (.zew 1 2),
      reads [0x010, 0x14C, 0x0C1] (.rnd 1 true),
      reads [0x020, 0x14E, 0x0C0] (.rndm 2 false)].all id = true := by decide

set_option maxRecDepth 8000 in
theorem test_decode_compare :
    [
      reads [0x022, 0x170] (.cm 1 2),
      reads [0x020, 0x172, 0x005] (.cmi 1 5#14),
      reads [0x023, 0x178] (.cmm 1 3),
      reads [0x03F, 0x17A, 0x1FF] (.cmim 1 0x3FFF#14)].all id = true := by decide

set_option maxRecDepth 8000 in
theorem test_decode_branch :
    [
      reads [0x100, 0x180, 0x010] (.b 1 0x10#17),
      reads [0x128, 0x197] (.br 15 5),
      reads [0x1FF, 0x1C4, 0x1FF, 0x1FE] (.bra 0x7FFFFFE#27),
      reads [0x1FF, 0x1C0, 0x1FF, 0x1F0] (.brr 0x7FFFFF0#27),
      reads [0x100, 0x1AF, 0x020] (.c 15 0x20#17),
      reads [0x128, 0x1BF] (.cr 15 5),
      reads [0x000, 0x1CC, 0x020, 0x000] (.caa 0x4000#27),
      reads [0x1FF, 0x1C8, 0x1FF, 0x1FC] (.car 0x7FFFFFC#27),
      reads [0x000, 0x140] (.re)].all id = true := by decide

set_option maxRecDepth 8000 in
theorem test_decode_loadStore :
    [
      reads [0x044, 0x150, 0x000, 0x000, 0x000, 0x000] (.lds 1 2 0 0 0#27),
      reads [0x044, 0x154, 0x000, 0x000, 0x000, 0x000] (.ldw 1 2 0 0 0#27),
      reads [0x044, 0x158, 0x000, 0x000, 0x000, 0x000] (.ldt 1 2 0 0 0#27),
      reads [0x044, 0x160, 0x000, 0x000, 0x000, 0x000] (.sts 1 2 0 0 0#27),
      reads [0x044, 0x164, 0x000, 0x000, 0x000, 0x000] (.stw 1 2 0 0 0#27),
      reads [0x044, 0x168, 0x000, 0x000, 0x000, 0x000] (.stt 1 2 0 0 0#27),
      reads [0x044, 0x0D0, 0x060] (.dmt 1 2 3)].all id = true := by decide

set_option maxRecDepth 8000 in
theorem test_decode_float1 :
    [
      reads [0x044, 0x004, 0x061] (.adf 1 2 3 true),
      reads [0x184, 0x00C, 0x080] (.adfm 6 2 4 false),
      reads [0x044, 0x014, 0x061] (.sbf 1 2 3 true),
      reads [0x184, 0x01C, 0x080] (.sbfm 6 2 4 false),
      reads [0x044, 0x024, 0x061] (.muf 1 2 3 true),
      reads [0x184, 0x02C, 0x080] (.mufm 6 2 4 false),
      reads [0x044, 0x034, 0x061] (.dvf 1 2 3 true),
      reads [0x184, 0x03C, 0x080] (.dvfm 6 2 4 false),
      reads [0x044, 0x044, 0x061] (.mdf 1 2 3 true),
      reads [0x184, 0x04C, 0x080] (.mdfm 6 2 4 false),
      reads [0x022, 0x174] (.cmf 1 2),
      reads [0x023, 0x17C] (.cmfm 1 3),
      reads [0x011, 0x14D, 0x001] (.ngf 1 2 true),
      reads [0x011, 0x14F, 0x100] (.ngfm 1 3 false)].all id = true := by decide

set_option maxRecDepth 8000 in
theorem test_decode_float2 :
    [
      reads [0x011, 0x144, 0x000] (.itf 1 2),
      reads [0x011, 0x146, 0x100] (.itfm 1 3),
      reads [0x011, 0x145, 0x000] (.fti 1 2),
      reads [0x011, 0x147, 0x100] (.ftim 1 3)].all id = true := by decide

set_option maxRecDepth 8000 in
theorem test_decode_system :
    [
      reads [0x102, 0x140] (.ei 1),
      reads [0x142, 0x140] (.di 1),
      reads [0x0C0, 0x140] (.ht),
      reads [0x040, 0x140] (.ir),
      reads [0x102, 0x141] (.rf 1),
      reads [0x0C2, 0x141] (.sf 1),
      reads [0x045, 0x148, 0x080] (.smp 1 2 1#2),
      reads [0x044, 0x148, 0x000] (.rmp 1 2),
      reads [0x080, 0x140] (.wt),
      reads [0x1FF, 0x1FF] (.dbrk)].all id = true := by decide

set_option maxRecDepth 8000 in
/-- Operands with bits in every group: V172, V190, V256, V257. -/
theorem test_decode_operands :
    [
      reads [0x1FF, 0x1C0, 0x1FF, 0x1F0] (.brr 0x7FFFFF0#27),
      reads [0x048, 0x1CC, 0x1A2, 0x167] (.caa 0x1234567#27),
      reads [0x044, 0x150, 0x007, 0x1FF, 0x1FF, 0x1F8] (.lds 1 2 0 0 0x7FFFFFF#27),
      reads [0x078, 0x168, 0x031, 0x115, 0x046, 0x138] (.stt 1 28 1 2 0x1234567#27)].all id = true := by decide

set_option maxRecDepth 8000 in
/-- Words that are no instruction: the rows "invalid" of V241 to V255 (V250 by 30_encoding.md R102, whose table gives it no length). -/
theorem test_decode_rejects :
    [
      rejects [0x044, 0x000, 0x064] .unassigned,
      rejects [0x044, 0x000, 0x070] .unassigned,
      rejects [0x000, 0x187, 0x006] .reservedCondition,
      rejects [0x008, 0x197] .reservedCondition,
      rejects [0x109, 0x197] .unassigned,
      rejects [0x044, 0x158, 0x018, 0x000, 0x000, 0x000] .reservedAdjust,
      rejects [0x044, 0x158, 0x000, 0x000, 0x000, 0x001] .unassigned,
      rejects [0x000, 0x1D0] .noLength,
      rejects [0x000, 0x1E0] .noLength,
      rejects [0x1A0, 0x140] .noLength,
      rejects [0x001, 0x140] .unassigned,
      rejects [0x1FE, 0x1FF] .unassigned,
      rejects [0x045, 0x148, 0x101] .unassigned,
      rejects [0x011, 0x14C, 0x020] .unassigned].all id = true := by decide

/-! ## Meanings: rows V1 to V230, at most two for each instruction -/

theorem test_run_ad_to_adci :
    [
      leads (.ad 1 2 3 true) (small [(2, 0x4000000#27), (3, 0x4000000#27)] 0#27 0x100#27 []) [(1, 0#27), (2, 0x4000000#27), (3, 0x4000000#27)] (some 7#27) 0x103#27 [],
      leads (.ad 1 31 2 false) (small [(2, 5#27)] 0#27 0x100#27 []) [(1, 0x105#27), (2, 5#27)] (some 0#27) 0x103#27 [],
      leads (.adi 1 1 0x7F#7 true) (small [(1, 0x7FFFF81#27)] 0#27 0x100#27 []) [(1, 0#27)] (some 3#27) 0x103#27 [],
      leads (.adi 4 5 0#7 true) (small [(5, 0#27)] 0#27 0x100#27 []) [(4, 0#27), (5, 0#27)] (some 1#27) 0x103#27 [],
      leads (.adm 5 1 3 true) (small [(1, 0#27), (2, 0x7FFFFFF#27), (3, 0#27), (4, 1#27)] 0#27 0x100#27 []) [(1, 0#27), (2, 0x7FFFFFF#27), (3, 0#27), (4, 1#27), (5, 1#27), (6, 0#27)] (some 0#27) 0x103#27 [],
      refusedR31 (exec (.adm 30 1 3 false) (small [] 0#27 0x100#27 [])),
      leads (.adim 1 1 1#7 true) (small [(1, 0x3FFFFFF#27), (2, 0x7FFFFFF#27)] 0#27 0x100#27 []) [(1, 0x4000000#27), (2, 0#27)] (some 0xC#27) 0x103#27 [],
      leads (.adc 1 2 3 true) (small [(2, 0x7FFFFFE#27), (3, 1#27)] 2#27 0x100#27 []) [(1, 0#27), (2, 0x7FFFFFE#27), (3, 1#27)] (some 3#27) 0x103#27 [],
      leads (.adc 1 2 3 true) (small [(2, 0x7FFFFFE#27), (3, 1#27)] 0#27 0x100#27 []) [(1, 0x7FFFFFF#27), (2, 0x7FFFFFE#27), (3, 1#27)] (some 8#27) 0x103#27 [],
      leads (.adci 1 2 0#7 true) (small [(2, 0x7FFFFFF#27)] 2#27 0x100#27 []) [(1, 0#27), (2, 0x7FFFFFF#27)] (some 3#27) 0x103#27 []].all id = true := by decide

theorem test_run_adcm_to_sbim :
    [
      leads (.adcm 5 1 3 true) (small [(1, 0#27), (2, 0x7FFFFFF#27), (3, 0#27), (4, 0#27)] 2#27 0x100#27 []) [(1, 0#27), (2, 0x7FFFFFF#27), (3, 0#27), (4, 0#27), (5, 1#27), (6, 0#27)] (some 0#27) 0x103#27 [],
      leads (.adcim 1 1 0x7F#7 true) (small [(1, 0#27), (2, 0#27)] 2#27 0x100#27 []) [(1, 0#27), (2, 0x80#27)] (some 0#27) 0x103#27 [],
      leads (.sb 1 2 3 true) (small [(2, 0#27), (3, 1#27)] 0#27 0x100#27 []) [(1, 0x7FFFFFF#27), (2, 0#27), (3, 1#27)] (some 0xE#27) 0x103#27 [],
      leads (.sb 1 2 3 true) (small [(2, 0x4000000#27), (3, 1#27)] 0#27 0x100#27 []) [(1, 0x3FFFFFF#27), (2, 0x4000000#27), (3, 1#27)] (some 4#27) 0x103#27 [],
      leads (.sbi 2 2 1#7 true) (small [(2, 1#27)] 0#27 0x100#27 []) [(2, 0#27)] (some 1#27) 0x103#27 [],
      leads (.sbm 5 1 3 true) (small [(1, 1#27), (2, 0#27), (3, 0#27), (4, 1#27)] 0#27 0x100#27 []) [(1, 1#27), (2, 0#27), (3, 0#27), (4, 1#27), (5, 0#27), (6, 0x7FFFFFF#27)] (some 0#27) 0x103#27 [],
      leads (.sbim 1 1 1#7 true) (small [(1, 0#27), (2, 0#27)] 0#27 0x100#27 []) [(1, 0x7FFFFFF#27), (2, 0x7FFFFFF#27)] (some 0xE#27) 0x103#27 []].all id = true := by decide

theorem test_run_sbc_to_sbcim :
    [
      leads (.sbc 1 2 3 true) (small [(2, 5#27), (3, 2#27)] 2#27 0x100#27 []) [(1, 2#27), (2, 5#27), (3, 2#27)] (some 0#27) 0x103#27 [],
      leads (.sbci 1 2 0#7 true) (small [(2, 0#27)] 2#27 0x100#27 []) [(1, 0x7FFFFFF#27), (2, 0#27)] (some 0xE#27) 0x103#27 [],
      leads (.sbcm 5 1 3 true) (small [(1, 1#27), (2, 0#27), (3, 0#27), (4, 0#27)] 2#27 0x100#27 []) [(1, 1#27), (2, 0#27), (3, 0#27), (4, 0#27), (5, 0#27), (6, 0x7FFFFFF#27)] (some 0#27) 0x103#27 [],
      leads (.sbcim 1 1 5#7 true) (small [(1, 0#27), (2, 5#27)] 2#27 0x100#27 []) [(1, 0x7FFFFFF#27), (2, 0x7FFFFFF#27)] (some 0xE#27) 0x103#27 []].all id = true := by decide

theorem test_run_mu_to_muis :
    [
      leads (.mu 1 2 3 true) (small [(2, 0x4000000#27), (3, 2#27)] 0#27 0x100#27 []) [(1, 0#27), (2, 0x4000000#27), (3, 2#27)] none 0x103#27 [],
      leads (.mu 1 2 3 true) (small [(2, 0x7FFFFFF#27), (3, 0x7FFFFFF#27)] 0#27 0x100#27 []) [(1, 1#27), (2, 0x7FFFFFF#27), (3, 0x7FFFFFF#27)] none 0x103#27 [],
      leads (.mui 1 2 0x7F#7 false) (small [(2, 3#27)] 0#27 0x100#27 []) [(1, 0x17D#27), (2, 3#27)] (some 0#27) 0x103#27 [],
      leads (.mum 5 1 3 true) (small [(1, 1#27), (2, 0#27), (3, 1#27), (4, 0#27)] 0#27 0x100#27 []) [(1, 1#27), (2, 0#27), (3, 1#27), (4, 0#27), (5, 0#27), (6, 0#27)] none 0x103#27 [],
      leads (.mum 5 1 3 true) (small [(1, 0#27), (2, 0x7FFFFFF#27), (3, 0#27), (4, 0x7FFFFFF#27)] 0#27 0x100#27 []) [(1, 0#27), (2, 0x7FFFFFF#27), (3, 0#27), (4, 0x7FFFFFF#27), (5, 0x7FFFFFE#27), (6, 1#27)] none 0x103#27 [],
      leads (.muim 1 1 2#7 true) (small [(1, 0#27), (2, 0x4000000#27)] 0#27 0x100#27 []) [(1, 1#27), (2, 0#27)] none 0x103#27 [],
      leads (.mus 1 2 3 true) (small [(2, 0x7FFFFFF#27), (3, 2#27)] 0#27 0x100#27 []) [(1, 0x7FFFFFE#27), (2, 0x7FFFFFF#27), (3, 2#27)] none 0x103#27 [],
      leads (.muis 1 2 0x7D#7 true) (small [(2, 5#27)] 0#27 0x100#27 []) [(1, 0x7FFFFF1#27), (2, 5#27)] none 0x103#27 []].all id = true := by decide

theorem test_run_musm_to_dvim :
    [
      leads (.musm 5 1 3 true) (small [(1, 0x7FFFFFF#27), (2, 0x7FFFFFF#27), (3, 0#27), (4, 3#27)] 0#27 0x100#27 []) [(1, 0x7FFFFFF#27), (2, 0x7FFFFFF#27), (3, 0#27), (4, 3#27), (5, 0x7FFFFFF#27), (6, 0x7FFFFFD#27)] none 0x103#27 [],
      leads (.muism 1 1 0x7F#7 true) (small [(1, 0#27), (2, 1#27)] 0#27 0x100#27 []) [(1, 0x7FFFFFF#27), (2, 0x7FFFFFF#27)] none 0x103#27 [],
      raisesIn (.dv 1 2 3 true) (small [(2, 7#27), (3, 0#27)] 0#27 0x100#27 []) .divideByZero,
      leads (.dv 1 2 3 true) (small [(2, 0x7FFFFF9#27), (3, 2#27)] 0#27 0x100#27 []) [(1, 0x3FFFFFC#27), (2, 0x7FFFFF9#27), (3, 2#27)] none 0x103#27 [],
      leads (.dvi 1 2 0xA#7 true) (small [(2, 5#27)] 0#27 0x100#27 []) [(1, 0#27), (2, 5#27)] none 0x103#27 [],
      raisesIn (.dvi 1 2 0#7 false) (small [(2, 5#27)] 0#27 0x100#27 []) .divideByZero,
      leads (.dvm 5 1 3 true) (small [(1, 1#27), (2, 0#27), (3, 0#27), (4, 2#27)] 0#27 0x100#27 []) [(1, 1#27), (2, 0#27), (3, 0#27), (4, 2#27), (5, 0#27), (6, 0x4000000#27)] none 0x103#27 [],
      raisesIn (.dvm 5 1 3 true) (small [(1, 1#27), (2, 0#27), (3, 0#27), (4, 0#27)] 0#27 0x100#27 []) .divideByZero,
      leads (.dvim 1 1 3#7 true) (small [(1, 1#27), (2, 1#27)] 0#27 0x100#27 []) [(1, 0#27), (2, 0x2AAAAAB#27)] none 0x103#27 []].all id = true := by decide

theorem test_run_dvs_to_mdi :
    [
      leads (.dvs 1 2 3 true) (small [(2, 0x7FFFFF9#27), (3, 2#27)] 0#27 0x100#27 []) [(1, 0x7FFFFFD#27), (2, 0x7FFFFF9#27), (3, 2#27)] none 0x103#27 [],
      leads (.dvs 1 2 3 true) (small [(2, 0x4000000#27), (3, 0x7FFFFFF#27)] 0#27 0x100#27 []) [(1, 0x4000000#27), (2, 0x4000000#27), (3, 0x7FFFFFF#27)] none 0x103#27 [],
      leads (.dvis 1 2 0x7F#7 true) (small [(2, 9#27)] 0#27 0x100#27 []) [(1, 0x7FFFFF7#27), (2, 9#27)] none 0x103#27 [],
      leads (.dvsm 5 1 3 true) (small [(1, 0x7FFFFFF#27), (2, 0x7FFFFF9#27), (3, 0#27), (4, 2#27)] 0#27 0x100#27 []) [(1, 0x7FFFFFF#27), (2, 0x7FFFFF9#27), (3, 0#27), (4, 2#27), (5, 0x7FFFFFF#27), (6, 0x7FFFFFD#27)] none 0x103#27 [],
      leads (.dvism 1 1 0x7E#7 true) (small [(1, 0#27), (2, 8#27)] 0#27 0x100#27 []) [(1, 0x7FFFFFF#27), (2, 0x7FFFFFC#27)] none 0x103#27 [],
      leads (.md 1 2 3 true) (small [(2, 7#27), (3, 2#27)] 0#27 0x100#27 []) [(1, 1#27), (2, 7#27), (3, 2#27)] none 0x103#27 [],
      leads (.md 1 2 3 true) (small [(2, 8#27), (3, 2#27)] 0#27 0x100#27 []) [(1, 0#27), (2, 8#27), (3, 2#27)] none 0x103#27 [],
      raisesIn (.mdi 1 2 0#7 true) (small [(2, 8#27)] 0#27 0x100#27 []) .divideByZero,
      leads (.mdi 1 2 0x64#7 true) (small [(2, 0x7FFFFFF#27)] 0#27 0x100#27 []) [(1, 0x1B#27), (2, 0x7FFFFFF#27)] none 0x103#27 []].all id = true := by decide

theorem test_run_mdm_to_mdism :
    [
      leads (.mdm 5 1 3 true) (small [(1, 1#27), (2, 1#27), (3, 0#27), (4, 2#27)] 0#27 0x100#27 []) [(1, 1#27), (2, 1#27), (3, 0#27), (4, 2#27), (5, 0#27), (6, 1#27)] none 0x103#27 [],
      leads (.mdim 1 1 7#7 true) (small [(1, 1#27), (2, 0#27)] 0#27 0x100#27 []) [(1, 0#27), (2, 1#27)] none 0x103#27 [],
      leads (.mds 1 2 3 true) (small [(2, 0x7FFFFF9#27), (3, 2#27)] 0#27 0x100#27 []) [(1, 0x7FFFFFF#27), (2, 0x7FFFFF9#27), (3, 2#27)] none 0x103#27 [],
      leads (.mds 1 2 3 true) (small [(2, 0x4000000#27), (3, 0x7FFFFFF#27)] 0#27 0x100#27 []) [(1, 0#27), (2, 0x4000000#27), (3, 0x7FFFFFF#27)] none 0x103#27 [],
      leads (.mdis 1 2 0x7D#7 true) (small [(2, 0x7FFFFF9#27)] 0#27 0x100#27 []) [(1, 0x7FFFFFF#27), (2, 0x7FFFFF9#27)] none 0x103#27 [],
      leads (.mdsm 5 1 3 true) (small [(1, 0x7FFFFFF#27), (2, 0x7FFFFF9#27), (3, 0#27), (4, 2#27)] 0#27 0x100#27 []) [(1, 0x7FFFFFF#27), (2, 0x7FFFFF9#27), (3, 0#27), (4, 2#27), (5, 0x7FFFFFF#27), (6, 0x7FFFFFF#27)] none 0x103#27 [],
      raisesIn (.mdism 1 1 0#7 true) (small [(1, 0#27), (2, 8#27)] 0#27 0x100#27 []) .divideByZero].all id = true := by decide

theorem test_run_an_to_orm :
    [
      leads (.an 1 2 3 true) (small [(2, 0x5555555#27), (3, 0x2AAAAAA#27)] 0#27 0x100#27 []) [(1, 0#27), (2, 0x5555555#27), (3, 0x2AAAAAA#27)] none 0x103#27 [],
      leads (.an 1 2 3 true) (small [(2, 0x7F0F0F0#27), (3, 0x4FF00FF#27)] 0#27 0x100#27 []) [(1, 0x4F000F0#27), (2, 0x7F0F0F0#27), (3, 0x4FF00FF#27)] none 0x103#27 [],
      leads (.ani 1 2 0x7F#7 true) (small [(2, 0x7FFFFFF#27)] 0#27 0x100#27 []) [(1, 0x7F#27), (2, 0x7FFFFFF#27)] none 0x103#27 [],
      leads (.anm 5 1 3 true) (small [(1, 0x7FFFFFF#27), (2, 0xF0F0F0#27), (3, 0x4000000#27), (4, 0xFF#27)] 0#27 0x100#27 []) [(1, 0x7FFFFFF#27), (2, 0xF0F0F0#27), (3, 0x4000000#27), (4, 0xFF#27), (5, 0x4000000#27), (6, 0xF0#27)] none 0x103#27 [],
      leads (.or 1 2 3 true) (small [(2, 0x5555555#27), (3, 0x2AAAAAA#27)] 0#27 0x100#27 []) [(1, 0x7FFFFFF#27), (2, 0x5555555#27), (3, 0x2AAAAAA#27)] none 0x103#27 [],
      leads (.or 1 2 2 true) (small [(2, 0#27)] 0#27 0x100#27 []) [(1, 0#27), (2, 0#27)] none 0x103#27 [],
      leads (.ori 1 2 0x40#7 false) (small [(2, 0x100#27)] 0#27 0x100#27 []) [(1, 0x140#27), (2, 0x100#27)] (some 0#27) 0x103#27 [],
      leads (.orm 5 1 3 true) (small [(1, 0#27), (2, 1#27), (3, 2#27), (4, 0#27)] 0#27 0x100#27 []) [(1, 0#27), (2, 1#27), (3, 2#27), (4, 0#27), (5, 2#27), (6, 1#27)] none 0x103#27 []].all id = true := by decide

theorem test_run_xr_to_ng :
    [
      leads (.xr 1 1 1 true) (small [(1, 0x1234567#27)] 0#27 0x100#27 []) [(1, 0#27)] none 0x103#27 [],
      leads (.xr 1 2 3 true) (small [(2, 0x7FFFFFF#27), (3, 0x3FFFFFF#27)] 0#27 0x100#27 []) [(1, 0x4000000#27), (2, 0x7FFFFFF#27), (3, 0x3FFFFFF#27)] none 0x103#27 [],
      leads (.xri 1 2 0x7F#7 true) (small [(2, 0x7F#27)] 0#27 0x100#27 []) [(1, 0#27), (2, 0x7F#27)] none 0x103#27 [],
      leads (.xrm 5 1 3 true) (small [(1, 0x7FFFFFF#27), (2, 0#27), (3, 0#27), (4, 0x7FFFFFF#27)] 0#27 0x100#27 []) [(1, 0x7FFFFFF#27), (2, 0#27), (3, 0#27), (4, 0x7FFFFFF#27), (5, 0x7FFFFFF#27), (6, 0x7FFFFFF#27)] none 0x103#27 [],
      leads (.bf 1 2 true) (small [(2, 0#27)] 0#27 0x100#27 []) [(1, 0x7FFFFFF#27), (2, 0#27)] none 0x103#27 [],
      leads (.bf 1 2 true) (small [(2, 0x7FFFFFF#27)] 0#27 0x100#27 []) [(1, 0#27), (2, 0x7FFFFFF#27)] none 0x103#27 [],
      leads (.bfm 5 1 true) (small [(1, 0x5555555#27), (2, 0x2AAAAAA#27)] 0#27 0x100#27 []) [(1, 0x5555555#27), (2, 0x2AAAAAA#27), (5, 0x2AAAAAA#27), (6, 0x5555555#27)] none 0x103#27 [],
      leads (.ng 1 2 true) (small [(2, 1#27)] 0#27 0x100#27 []) [(1, 0x7FFFFFF#27), (2, 1#27)] none 0x103#27 [],
      leads (.ng 1 2 true) (small [(2, 0x4000000#27)] 0#27 0x100#27 []) [(1, 0x4000000#27), (2, 0x4000000#27)] none 0x103#27 []].all id = true := by decide

theorem test_run_ngm_to_ntm :
    [
      leads (.ngm 5 1 true) (small [(1, 0#27), (2, 1#27)] 0#27 0x100#27 []) [(1, 0#27), (2, 1#27), (5, 0x7FFFFFF#27), (6, 0x7FFFFFF#27)] none 0x103#27 [],
      leads (.ngm 5 1 true) (small [(1, 0x4000000#27), (2, 0#27)] 0#27 0x100#27 []) [(1, 0x4000000#27), (2, 0#27), (5, 0x4000000#27), (6, 0#27)] none 0x103#27 [],
      leads (.nt 1 2 true) (small [(2, 0#27)] 0#27 0x100#27 []) [(1, 1#27), (2, 0#27)] none 0x103#27 [],
      leads (.nt 1 2 true) (small [(2, 0x4000000#27)] 0#27 0x100#27 []) [(1, 0#27), (2, 0x4000000#27)] none 0x103#27 [],
      leads (.ntm 5 1 true) (small [(1, 0#27), (2, 0#27)] 0#27 0x100#27 []) [(1, 0#27), (2, 0#27), (5, 0#27), (6, 1#27)] none 0x103#27 [],
      leads (.ntm 5 1 true) (small [(1, 1#27), (2, 0#27)] 0#27 0x100#27 []) [(1, 1#27), (2, 0#27), (5, 0#27), (6, 0#27)] none 0x103#27 []].all id = true := by decide

theorem test_run_sl_to_sri :
    [
      leads (.sl 1 2 3 true) (small [(2, 1#27), (3, 0x1A#27)] 0#27 0x100#27 []) [(1, 0x4000000#27), (2, 1#27), (3, 0x1A#27)] none 0x103#27 [],
      leads (.sl 1 2 3 true) (small [(2, 0x7FFFFFF#27), (3, 0x1B#27)] 0#27 0x100#27 []) [(1, 0#27), (2, 0x7FFFFFF#27), (3, 0x1B#27)] none 0x103#27 [],
      leads (.sli 1 2 4#7 true) (small [(2, 0xABCDEF#27)] 0#27 0x100#27 []) [(1, 0x2BCDEF0#27), (2, 0xABCDEF#27)] none 0x103#27 [],
      leads (.sli 1 2 0x7F#7 true) (small [(2, 0x7FFFFFF#27)] 0#27 0x100#27 []) [(1, 0#27), (2, 0x7FFFFFF#27)] none 0x103#27 [],
      leads (.slm 5 1 3 true) (small [(1, 0#27), (2, 1#27), (3, 0x1B#27)] 0#27 0x100#27 []) [(1, 0#27), (2, 1#27), (3, 0x1B#27), (5, 1#27), (6, 0#27)] none 0x103#27 [],
      leads (.slm 5 1 3 true) (small [(1, 0#27), (2, 1#27), (3, 0x36#27)] 0#27 0x100#27 []) [(1, 0#27), (2, 1#27), (3, 0x36#27), (5, 0#27), (6, 0#27)] none 0x103#27 [],
      leads (.slim 1 1 9#7 true) (small [(1, 1#27), (2, 0x7FC0000#27)] 0#27 0x100#27 []) [(1, 0x3FF#27), (2, 0#27)] none 0x103#27 [],
      leads (.sr 1 2 3 true) (small [(2, 0x4000000#27), (3, 0x1A#27)] 0#27 0x100#27 []) [(1, 1#27), (2, 0x4000000#27), (3, 0x1A#27)] none 0x103#27 [],
      leads (.sr 1 2 3 true) (small [(2, 0x4000000#27), (3, 0x1B#27)] 0#27 0x100#27 []) [(1, 0#27), (2, 0x4000000#27), (3, 0x1B#27)] none 0x103#27 [],
      leads (.sri 1 2 1#7 true) (small [(2, 0x7FFFFFF#27)] 0#27 0x100#27 []) [(1, 0x3FFFFFF#27), (2, 0x7FFFFFF#27)] none 0x103#27 []].all id = true := by decide

theorem test_run_srm_to_saim :
    [
      leads (.srm 5 1 3 true) (small [(1, 0x4000000#27), (2, 0#27), (3, 0x1B#27)] 0#27 0x100#27 []) [(1, 0x4000000#27), (2, 0#27), (3, 0x1B#27), (5, 0#27), (6, 0x4000000#27)] none 0x103#27 [],
      leads (.srim 1 1 9#7 true) (small [(1, 0x1FF#27), (2, 0#27)] 0#27 0x100#27 []) [(1, 0#27), (2, 0x7FC0000#27)] none 0x103#27 [],
      leads (.sa 1 2 3 true) (small [(2, 0x4000000#27), (3, 0x1A#27)] 0#27 0x100#27 []) [(1, 0x7FFFFFF#27), (2, 0x4000000#27), (3, 0x1A#27)] none 0x103#27 [],
      leads (.sa 1 2 3 true) (small [(2, 0x3FFFFFF#27), (3, 0x64#27)] 0#27 0x100#27 []) [(1, 0#27), (2, 0x3FFFFFF#27), (3, 0x64#27)] none 0x103#27 [],
      leads (.sai 1 2 4#7 true) (small [(2, 0x7FFFF00#27)] 0#27 0x100#27 []) [(1, 0x7FFFFF0#27), (2, 0x7FFFF00#27)] none 0x103#27 [],
      leads (.sam 5 1 3 true) (small [(1, 0x4000000#27), (2, 0#27), (3, 0x1B#27)] 0#27 0x100#27 []) [(1, 0x4000000#27), (2, 0#27), (3, 0x1B#27), (5, 0x7FFFFFF#27), (6, 0x4000000#27)] none 0x103#27 [],
      leads (.saim 1 1 1#7 true) (small [(1, 0x4000001#27), (2, 1#27)] 0#27 0x100#27 []) [(1, 0x6000000#27), (2, 0x4000000#27)] none 0x103#27 []].all id = true := by decide

theorem test_run_rl_to_rri :
    [
      leads (.rl 1 2 3 true) (small [(2, 0x4000001#27), (3, 1#27)] 0#27 0x100#27 []) [(1, 3#27), (2, 0x4000001#27), (3, 1#27)] none 0x103#27 [],
      leads (.rl 1 2 3 true) (small [(2, 0x4000001#27), (3, 0x1C#27)] 0#27 0x100#27 []) [(1, 3#27), (2, 0x4000001#27), (3, 0x1C#27)] none 0x103#27 [],
      leads (.rli 1 2 9#7 true) (small [(2, 0x1234567#27)] 0#27 0x100#27 []) [(1, 0x68ACE48#27), (2, 0x1234567#27)] none 0x103#27 [],
      leads (.rlm 5 1 3 true) (small [(1, 1#27), (2, 2#27), (3, 0x1B#27)] 0#27 0x100#27 []) [(1, 1#27), (2, 2#27), (3, 0x1B#27), (5, 2#27), (6, 1#27)] none 0x103#27 [],
      leads (.rlim 1 1 0x36#7 true) (small [(1, 1#27), (2, 2#27)] 0#27 0x100#27 []) [(1, 1#27), (2, 2#27)] none 0x103#27 [],
      leads (.rr 1 2 3 true) (small [(2, 1#27), (3, 1#27)] 0#27 0x100#27 []) [(1, 0x4000000#27), (2, 1#27), (3, 1#27)] none 0x103#27 [],
      leads (.rr 1 2 3 true) (small [(2, 1#27), (3, 0#27)] 0#27 0x100#27 []) [(1, 1#27), (2, 1#27), (3, 0#27)] none 0x103#27 [],
      leads (.rri 1 2 9#7 true) (small [(2, 0x1234567#27)] 0#27 0x100#27 []) [(1, 0x59C91A2#27), (2, 0x1234567#27)] none 0x103#27 []].all id = true := by decide

theorem test_run_rrm_to_rrim :
    [
      leads (.rrm 5 1 3 true) (small [(1, 0#27), (2, 1#27), (3, 1#27)] 0#27 0x100#27 []) [(1, 0#27), (2, 1#27), (3, 1#27), (5, 0x4000000#27), (6, 0#27)] none 0x103#27 [],
      leads (.rrim 1 1 0x37#7 true) (small [(1, 0#27), (2, 1#27)] 0#27 0x100#27 []) [(1, 0x4000000#27), (2, 0#27)] none 0x103#27 []].all id = true := by decide

theorem test_run_mh_to_zes :
    [
      leads (.mh 1 0x1FFFF#17) (small [(1, 0x3FF#27)] 0#27 0x100#27 []) [(1, 0x7FFFFFF#27)] none 0x103#27 [],
      leads (.mh 1 1#17) (small [(1, 0xC00#27)] 0#27 0x100#27 []) [(1, 0x400#27)] none 0x103#27 [],
      leads (.ml 1 0#17) (small [] 0#27 0x100#27 []) [(1, 0#27)] none 0x103#27 [],
      refusedR31 (exec (.ml 31 5#17) (small [] 0#27 0x100#27 [])),
      leads (.ms 1 0x1FFFF#17) (small [] 0#27 0x100#27 []) [(1, 0x7FFFFFF#27)] none 0x103#27 [],
      leads (.ms 1 0xFFFF#17) (small [] 0#27 0x100#27 []) [(1, 0xFFFF#27)] none 0x103#27 [],
      leads (.ses 1 2) (small [(2, 0x1FF#27)] 0#27 0x100#27 []) [(1, 0x7FFFFFF#27), (2, 0x1FF#27)] none 0x103#27 [],
      leads (.ses 1 2) (small [(2, 0x7FFFEFF#27)] 0#27 0x100#27 []) [(1, 0xFF#27), (2, 0x7FFFEFF#27)] none 0x103#27 [],
      leads (.sew 1 2) (small [(2, 0x20000#27)] 0#27 0x100#27 []) [(1, 0x7FE0000#27), (2, 0x20000#27)] none 0x103#27 [],
      leads (.sew 1 2) (small [(2, 0x7FDFFFF#27)] 0#27 0x100#27 []) [(1, 0x1FFFF#27), (2, 0x7FDFFFF#27)] none 0x103#27 [],
      leads (.zes 1 2) (small [(2, 0x7FFFFFF#27)] 0#27 0x100#27 []) [(1, 0x1FF#27), (2, 0x7FFFFFF#27)] none 0x103#27 [],
      leads (.zes 1 2) (small [(2, 0x7FFFE00#27)] 0#27 0x100#27 []) [(1, 0#27), (2, 0x7FFFE00#27)] none 0x103#27 []].all id = true := by decide

theorem test_run_zew :
    [
      leads (.zew 1 2) (small [(2, 0x7FFFFFF#27)] 0#27 0x100#27 []) [(1, 0x3FFFF#27), (2, 0x7FFFFFF#27)] none 0x103#27 []].all id = true := by decide

theorem test_run_cm_to_cmim :
    [
      leads (.cm 1 2) (small [(1, 1#27), (2, 2#27)] 0#27 0x100#27 []) [(1, 1#27), (2, 2#27)] (some 0xE#27) 0x102#27 [],
      leads (.cm 1 2) (small [(1, 0x4000000#27), (2, 1#27)] 0#27 0x100#27 []) [(1, 0x4000000#27), (2, 1#27)] (some 4#27) 0x102#27 [],
      leads (.cmi 1 5#14) (small [(1, 5#27)] 0#27 0x100#27 []) [(1, 5#27)] (some 1#27) 0x103#27 [],
      leads (.cmi 1 0x2000#14) (small [(1, 0x7FFE000#27)] 0#27 0x100#27 []) [(1, 0x7FFE000#27)] (some 5#27) 0x103#27 [],
      leads (.cmm 1 3) (small [(1, 1#27), (2, 0#27), (3, 0#27), (4, 0x7FFFFFF#27)] 0#27 0x100#27 []) [(1, 1#27), (2, 0#27), (3, 0#27), (4, 0x7FFFFFF#27)] (some 0#27) 0x102#27 [],
      leads (.cmm 1 3) (small [(1, 7#27), (2, 9#27), (3, 7#27), (4, 9#27)] 0#27 0x100#27 []) [(1, 7#27), (2, 9#27), (3, 7#27), (4, 9#27)] (some 1#27) 0x102#27 [],
      leads (.cmim 1 0x3FFF#14) (small [(1, 0x7FFFFFF#27), (2, 0x7FFFFFF#27)] 0#27 0x100#27 []) [(1, 0x7FFFFFF#27), (2, 0x7FFFFFF#27)] (some 5#27) 0x103#27 [],
      leads (.cmim 1 1#14) (small [(1, 0#27), (2, 0#27)] 0#27 0x100#27 []) [(1, 0#27), (2, 0#27)] (some 0xE#27) 0x103#27 []].all id = true := by decide

theorem test_run_b_to_cr :
    [
      leads (.b 15 0x1FFFA#17) (small [] 0#27 0x100#27 []) [] (some 0#27) 0xFA#27 [],
      leads (.b 10 6#17) (small [] 0xC#27 0x100#27 []) [] (some 0xC#27) 0x103#27 [],
      leads (.br 15 5) (small [(5, 0x123456#27)] 0#27 0x100#27 []) [(5, 0x123456#27)] (some 0#27) 0x123456#27 [],
      leads (.br 15 31) (small [] 0#27 0x100#27 []) [] (some 0#27) 0x100#27 [],
      leads (.bra 0x7FFFFFE#27) (small [] 0#27 0x100#27 []) [] (some 0#27) 0x7FFFFFE#27 [],
      leads (.brr 0x7FFFFF0#27) (small [] 0#27 0x100#27 []) [] (some 0#27) 0xF0#27 [],
      leads (.brr 0x200#27) (small [] 0#27 0x7FFFF00#27 []) [] (some 0#27) 0x100#27 [],
      leads (.c 15 0x20#17) (small [(29, 0x777#27)] 0#27 0x100#27 []) [(29, 0x103#27)] (some 0#27) 0x120#27 [],
      leads (.c 1 0x20#17) (small [(29, 0x777#27)] 0#27 0x100#27 []) [(29, 0x777#27)] (some 0#27) 0x103#27 [],
      leads (.cr 15 5) (small [(5, 0x2000#27), (29, 0#27)] 0#27 0x100#27 []) [(5, 0x2000#27), (29, 0x102#27)] (some 0#27) 0x2000#27 [],
      leads (.cr 15 29) (small [(29, 0x2000#27)] 0#27 0x100#27 []) [(29, 0x102#27)] (some 0#27) 0x102#27 []].all id = true := by decide

theorem test_run_caa_to_re :
    [
      leads (.caa 0x4000#27) (small [(29, 0#27)] 0#27 0x100#27 []) [(29, 0x104#27)] (some 0#27) 0x4000#27 [],
      leads (.car 0x7FFFFFC#27) (small [(29, 0#27)] 0#27 0x100#27 []) [(29, 0x104#27)] (some 0#27) 0xFC#27 [],
      leads (.re) (small [(29, 0x104#27)] 0#27 0x100#27 []) [(29, 0x104#27)] (some 0#27) 0x104#27 []].all id = true := by decide

theorem test_run_lds_to_stt :
    [
      leads (.lds 1 2 2 0 1#27) (small [(2, 0x2000#27)] 0#27 0x100#27 [(0x2000, 0x0AB#9), (0x2001, 0x1CD#9), (0x2002, 0x0EF#9), (0x2003, 0x001#9), (0x2004, 0x002#9), (0x2005, 0x003#9)]) [(1, 0x1CD#27), (2, 0xEF#27), (3, 1#27)] (some 0#27) 0x106#27 [(0x2000, 0x0AB#9), (0x2001, 0x1CD#9), (0x2002, 0x0EF#9), (0x2003, 0x001#9), (0x2004, 0x002#9), (0x2005, 0x003#9)],
      leads (.lds 1 2 0 0 0x7FFFFFF#27) (small [(2, 0x2001#27)] 0#27 0x100#27 [(0x2000, 0x0AB#9), (0x2001, 0x1CD#9), (0x2002, 0x0EF#9), (0x2003, 0x001#9), (0x2004, 0x002#9), (0x2005, 0x003#9)]) [(1, 0xAB#27), (2, 0x2001#27)] (some 0#27) 0x106#27 [(0x2000, 0x0AB#9), (0x2001, 0x1CD#9), (0x2002, 0x0EF#9), (0x2003, 0x001#9), (0x2004, 0x002#9), (0x2005, 0x003#9)],
      leads (.ldw 1 2 0 0 0#27) (small [(2, 0x2000#27)] 0#27 0x100#27 [(0x2000, 0x0AB#9), (0x2001, 0x1CD#9), (0x2002, 0x0EF#9), (0x2003, 0x001#9), (0x2004, 0x002#9), (0x2005, 0x003#9)]) [(1, 0x157CD#27), (2, 0x2000#27)] (some 0#27) 0x106#27 [(0x2000, 0x0AB#9), (0x2001, 0x1CD#9), (0x2002, 0x0EF#9), (0x2003, 0x001#9), (0x2004, 0x002#9), (0x2005, 0x003#9)],
      leads (.ldt 1 2 1 1 0#27) (small [(2, 0x2000#27)] 0#27 0x100#27 [(0x2000, 0x0AB#9), (0x2001, 0x1CD#9), (0x2002, 0x0EF#9), (0x2003, 0x001#9), (0x2004, 0x002#9), (0x2005, 0x003#9)]) [(1, 0x73556EF#27), (2, 0x80209#27)] (some 0#27) 0x106#27 [(0x2000, 0x0AB#9), (0x2001, 0x1CD#9), (0x2002, 0x0EF#9), (0x2003, 0x001#9), (0x2004, 0x002#9), (0x2005, 0x003#9)],
      leads (.ldt 2 2 0 1 0#27) (small [(2, 0x2000#27)] 0#27 0x100#27 [(0x2000, 0x0AB#9), (0x2001, 0x1CD#9), (0x2002, 0x0EF#9), (0x2003, 0x001#9), (0x2004, 0x002#9), (0x2005, 0x003#9)]) [(2, 0x73556F2#27)] (some 0#27) 0x106#27 [(0x2000, 0x0AB#9), (0x2001, 0x1CD#9), (0x2002, 0x0EF#9), (0x2003, 0x001#9), (0x2004, 0x002#9), (0x2005, 0x003#9)],
      leads (.sts 1 2 0 0 0#27) (small [(1, 0x7FFFEAB#27), (2, 0x3000#27)] 0#27 0x100#27 []) [(1, 0x7FFFEAB#27), (2, 0x3000#27)] (some 0#27) 0x106#27 [(0x3000, 0x0AB#9)],
      leads (.sts 30 2 0 0 0#27) (small [(2, 0x3000#27)] 0x1FF5#27 0x100#27 []) [(2, 0x3000#27)] (some 0x1FF5#27) 0x106#27 [(0x3000, 0x1F5#9)],
      leads (.stw 1 2 0 0 0#27) (small [(1, 0x7FEAB1C#27), (2, 0x3000#27)] 0#27 0x100#27 []) [(1, 0x7FEAB1C#27), (2, 0x3000#27)] (some 0#27) 0x106#27 [(0x3000, 0x155#9), (0x3001, 0x11C#9)],
      leads (.stt 1 28 1 2 0#27) (small [(1, 0x111#27), (2, 0x222#27), (28, 0x3006#27)] 0#27 0x100#27 []) [(1, 0x111#27), (2, 0x222#27), (28, 0x3000#27)] (some 0#27) 0x106#27 [(0x3000, 0x000#9), (0x3001, 0x000#9), (0x3002, 0x111#9), (0x3003, 0x001#9), (0x3004, 0x000#9), (0x3005, 0x022#9)],
      leads (.stt 2 2 0 2 0#27) (small [(2, 0x3003#27)] 0#27 0x100#27 []) [(2, 0x3000#27)] (some 0#27) 0x106#27 [(0x3000, 0x018#9), (0x3001, 0x000#9), (0x3002, 0x003#9)]].all id = true := by decide

theorem test_run_dmt :
    [
      leads (.dmt 1 2 3) (small [(1, 0x3000#27), (2, 0x2000#27), (3, 3#27)] 0#27 0x100#27 [(0x2000, 0x0AB#9), (0x2001, 0x1CD#9), (0x2002, 0x0EF#9), (0x2003, 0x001#9), (0x2004, 0x002#9), (0x2005, 0x003#9)]) [(1, 0x3000#27), (2, 0x2000#27), (3, 3#27)] (some 0#27) 0x103#27 [(0x2000, 0x0AB#9), (0x2001, 0x1CD#9), (0x2002, 0x0EF#9), (0x2003, 0x001#9), (0x2004, 0x002#9), (0x2005, 0x003#9), (0x3000, 0x0AB#9), (0x3001, 0x1CD#9), (0x3002, 0x0EF#9)],
      leads (.dmt 1 2 3) (small [(1, 0x2001#27), (2, 0x2000#27), (3, 4#27)] 0#27 0x100#27 [(0x2000, 0x0AB#9), (0x2001, 0x1CD#9), (0x2002, 0x0EF#9), (0x2003, 0x001#9), (0x2004, 0x002#9), (0x2005, 0x003#9)]) [(1, 0x2001#27), (2, 0x2000#27), (3, 4#27)] (some 0#27) 0x103#27 [(0x2000, 0x0AB#9), (0x2001, 0x0AB#9), (0x2002, 0x0AB#9), (0x2003, 0x0AB#9), (0x2004, 0x0AB#9), (0x2005, 0x003#9)]].all id = true := by decide

theorem test_run_ei_to_wt :
    [
      leads (.ei 1) (small [(1, 0x155#27)] 0x7FFFFFF#27 0x100#27 []) [(1, 0x155#27)] (some 0x7FFF55F#27) 0x102#27 [],
      leads (.ei 1) (small [(1, 0x7FFFFFF#27)] 0xA#27 0x100#27 []) [(1, 0x7FFFFFF#27)] (some 0x1FFA#27) 0x102#27 [],
      leads (.di 1) (small [(1, 0x155#27)] 5#27 0x100#27 []) [(1, 0x155#27)] (some 0xAA5#27) 0x102#27 [],
      leads (.di 1) (small [(1, 0#27)] 0#27 0x100#27 []) [(1, 0#27)] (some 0x1FF0#27) 0x102#27 [],
      leads (.ht) (small [] 0x1FF3#27 0x100#27 []) [] (some 3#27) 0x100#27 [],
      leads (.rf 1) (small [(1, 0#27)] 0x7FFE00F#27 0x100#27 []) [(1, 0x7FFE00F#27)] (some 0x7FFE00F#27) 0x102#27 [],
      refusedR31 (exec (.rf 31) (small [] 0#27 0x100#27 [])),
      leads (.sf 1) (small [(1, 0x7FFFFFF#27)] 0#27 0x100#27 []) [(1, 0x7FFFFFF#27)] (some 0x7FFFFFF#27) 0x102#27 [],
      leads (.sf 1) (small [(1, 0#27)] 0x1FFF#27 0x100#27 []) [(1, 0#27)] (some 0#27) 0x102#27 [],
      leads (.wt) (small [] 0x10#27 0x100#27 []) [] (some 0x10#27) 0x102#27 []].all id = true := by decide

theorem test_run_dbrk :
    [
      raisesIn (.dbrk) (small [] 0x100#27 0x100#27 []) .invalidInstruction].all id = true := by decide

/-! ## System instructions with page and frame state (rows V231 to V238 and the IR example) -/

/-- The protections of V231 to V238: pages 4 and 5 are 2, page 6 is 3. -/
def pages : ProtTable := [(4, 2#2), (5, 2#2), (6, 3#2)]

/-- RMP packs pages 4 to 7 (V231), and page 4 alone (V232). -/
theorem test_run_rmp :
    (nextIs (exec (.rmp 1 2) { small [(1, 0x1000#27), (2, 4#27)] 2#27 0x100#27 [] with prot := pages }) (fun t =>
        t.x 1 == 0x3A#27 && t.flags == 3#27 && t.pc == 0x103#27) &&
      nextIs (exec (.rmp 1 2) { small [(1, 0x1000#27), (2, 1#27)] 0#27 0x100#27 [] with prot := pages }) (fun t =>
        t.x 1 == 2#27 && t.flags == 1#27)) = true := by decide

/-- SMP sets pages 6 and 7 (V233), and page 0 to nothing (V234). -/
theorem test_run_smp :
    (nextIs (exec (.smp 1 2 1#2) { small [(1, 0x1800#27), (2, 2#27)] 0#27 0x100#27 [] with prot := pages }) (fun t =>
        t.prot == [(4, 2#2), (5, 2#2), (6, 1#2), (7, 1#2)] && t.flags == 1#27 && t.x 1 == 0x1800#27) &&
      nextIs (exec (.smp 1 2 0#2) (small [(1, 0#27), (2, 1#27)] 0#27 0x100#27 [])) (fun t =>
        t.prot == [(4, 2#2), (8, 2#2), (12, 2#2)] && t.flags == 1#27)) = true := by decide

/-- The frame of the IR example: slot i holds 0x100 + i, slot 28 ST, slot 30 1, slot 31 0x456, the last Tri 0x1FF2. -/
def exampleFrame : List Word :=
  (List.range 28).map (fun i => BitVec.ofNat 27 (0x100 + i)) ++ [0x3000#27, 0x11D#27, 1#27, 0x456#27, 0x1FF2#27]

/-- A state about to return through the example frame. -/
def frameState : State :=
  small [(28, 0x3000#27)] 0#27 0x100#27 ((exampleFrame.flatMap Size.tri.split).zipIdx.map (fun p => (0x3000 + p.2, p.1)))

set_option maxRecDepth 20000 in
theorem test_run_ir :
    nextIs (exec .ir frameState) (fun t =>
      t.x 0 == 0x100#27 && t.x 27 == 0x11B#27 && t.x 28 == 0x3063#27 && t.x 29 == 0x11D#27 && t.flags == 0x1FF2#27 &&
        t.pc == 0x456#27) = true := by decide

/-! ## Floating point and random: they complete, with the functions and draws of Config (rows V202 to V219, V142, V143) -/

theorem test_run_float :
    nextIs (exec (.adf 1 2 3 false) (small [(2, 5#27), (3, 6#27)] 9#27 0x100#27 [])) (fun t =>
        t.flags == 9#27 && t.pc == 0x103#27 && t.x 2 == 5#27) = true := by decide

theorem test_run_rnd :
    nextIs (exec (.rnd 1 false) (small [] 9#27 0x100#27 [])) (fun t => t.flags == 9#27 && t.pc == 0x103#27) = true := by decide

/-! ## Exceptions, interrupts and steps (rows T1 to T10) -/

/-- The common setting of T1 to T9: the pointer table, and pages 0, 4 and the last. -/
def trapState (regs : List (RegNo × Word)) (flags pc : Word) (mem : Memory) (up : Bool) : State :=
  { small ((28, 0x1300#27) :: regs) flags pc
      (mem ++ (List.range 9).flatMap (fun n => [(0x7FFFF00 + 3 * n, 1#9), (0x7FFFF01 + 3 * n, 0#9),
        (0x7FFFF02 + 3 * n, BitVec.ofNat 9 (16 * n))])) with
      prot := [(0, 3#2), (4, 2#2), (0x1FFFF, 2#2)]
      settings := { Settings.default with stackDirectionFlag := up } }

/-- The Tri at an address of a state, as a number. -/
def triOf (s : State) (a : Addr) : Word := elementAt s .tri a

set_option maxRecDepth 20000 in
/-- T1: the trap entry of DivideByZero. -/
theorem test_trap_divideByZero :
    nextIs (exec (.dv 3 1 2 false) (trapState [(1, 0x11#27)] 0x205#27 0x100#27 [] false)) (fun t =>
      t.pc == 0x250#27 && t.x 28 == 0x129D#27 && t.flags == 0x205#27 && t.runState == .running &&
        triOf t 0x12A0#27 == 0x11#27 && triOf t 0x12F1#27 == 0x129D#27 && triOf t 0x12FA#27 == 0x100#27 &&
          triOf t 0x12FD#27 == 0x205#27) = true := by decide

set_option maxRecDepth 20000 in
/-- T4: a load that is denied part-way saves its partial effect. -/
theorem test_trap_load :
    nextIs (exec (.ldt 1 2 1 1 0#27)
        (trapState [(2, 0x13FD#27)] 0x400#27 0x100#27 [(0x13FD, 1#9), (0x13FE, 2#9), (0x13FF, 3#9)] false)) (fun t =>
      t.pc == 0x260#27 && triOf t 0x12A0#27 == 0x80203#27 && triOf t 0x12FA#27 == 0x100#27 && t.x 2 == 0x13FD#27) =
        true := by decide

set_option maxRecDepth 20000 in
/-- T8: the lowest pending and enabled interrupt is entered at the boundary. -/
theorem test_step_interrupt :
    nextIs (step { trapState [] 0xA0#27 0x100#27 [] false with pending := 0b1010#9 }) (fun t =>
      t.pc == 0x210#27 && t.pending == 0b1000#9 && triOf t 0x12FA#27 == 0x100#27) = true := by decide

set_option maxRecDepth 20000 in
/-- T10: with frames that grow upward. -/
theorem test_trap_upward :
    nextIs (exec .dbrk (trapState [(5, 0x55#27)] 0x100#27 0x100#27 [] true)) (fun t =>
      t.x 28 == 0x1363#27 && t.pc == 0x240#27 && triOf t 0x1354#27 == 0x1300#27 &&
        nextIs (exec .ir t) (fun u => u.x 28 == 0x1300#27 && u.pc == 0x100#27 && u.x 5 == 0x55#27)) = true := by decide

set_option maxRecDepth 20000 in
/-- The first step after reset runs the placed word: ML R1, 0x5 (word 0x4820005, the word of V126 with another immediate). -/
theorem test_step_placed :
    nextIs (step (State.reset.withFetchWord 32 0x4820005)) (fun t => t.x 1 == 5#27 && t.pc == 3#27) = true := by decide

/-- After reset nothing can be fetched: page 0 allows nothing, MemoryException is disabled, the core is Faulted. -/
theorem test_step_reset : nextIs (step State.reset) (fun t => t.runState == .faulted) = true := by decide

/-- The memory after reset is in canonical form. -/
theorem test_reset_memory_wf : State.reset.mem.wf := by decide

/-- A state whose page 1 has the protection 1. -/
def w0 : State := { State.reset with prot := [(1, 1#2)] }

/-! ## Other values of the parameters of 00_scope.md R7 -/

/-- Z in bit 3 (`FlagBits`), RA in R5 and the program counter in R7 (`SpecialRegs`). -/
theorem test_settings_layout :
    let s (i : Instr) : Out := exec i (((State.launch { Launch.default with
      resetPC := 0x100#27
      settings := { Settings.default with
        flagCO := .function, flagBits := ⟨3, 2, 1, 0, by decide⟩, specialRegs := ⟨4, 5, 6, 7, by decide⟩ } }).setX 5 0x222#27))
    (nextIs (s (.adi 1 2 0#7 true)) (fun t => t.x 6 == 8#27 && t.x 7 == 0x103#27) &&
      nextIs (s .re) (fun t => t.x 7 == 0x222#27) && nextIs (s (.caa 9#27)) (fun t => t.x 5 == 0x104#27 && t.x 7 == 9#27)) =
        true := by decide

/-- The one quotient that does not fit (`DivOverflow`). -/
theorem test_settings_divOverflow :
    nextIs (exec (.dvs 1 2 3 false) { small [(2, 0x4000000#27), (3, 0x7FFFFFF#27)] 0#27 0x100#27 [] with
        settings := { Settings.default with divOverflow := { DivOverflow.default with quotient27 := 5#27 } } })
      (fun t => t.x 1 == 5#27) = true := by decide

/-- `Perm` where value 1 allows fetching only, and `MemMap` with plain memory at 0x4000000 only. -/
theorem test_settings_memory :
    let s : State := { w0 with settings := { Settings.default with
      perm := ⟨0b0100#4, 0b0100#4, 0b0010#4⟩, memMap := [⟨0x4000000, 0x4000003, .memory⟩] } }
    (s.allows .fetch 0x400#27 && !s.allows .read 0x400#27 && s.plain 0x4000003#27 && !s.plain 0x4000004#27 &&
      !s.plain 0#27) = true := by decide

set_option maxRecDepth 8000 in
/-- `FetchOrder` with the groups in their own order: AD R1, R2, R3 with its first two bytes not swapped. -/
theorem test_settings_fetchOrder :
    decode { Settings.default with fetchOrder := ⟨false, false, 0, 1, 2, 3, by decide⟩ } [0x000, 0x044, 0x060] =
      .ok (.ad 1 2 3 false, []) := by decide

/-! ## Witnesses: for each obligation with hypotheses, a state and operands that meet them -/

/-- A test of every byte that a range can be read. -/
def canRead (s : State) (a : Addr) (n : Nat) : Bool :=
  (List.range n).all fun k =>
    s.plain (a + BitVec.ofNat 27 k) && (s.allows .read (a + BitVec.ofNat 27 k) &&
      (s.mem.byteAt (a + BitVec.ofNat 27 k)).isSome)

/-- A test of every byte that a range can be written. -/
def canWrite (s : State) (a : Addr) (n : Nat) : Bool :=
  (List.range n).all fun k => s.plain (a + BitVec.ofNat 27 k) && s.allows .write (a + BitVec.ofNat 27 k)

/-- A test that bytes can be fetched. -/
def canFetch (s : State) (a : Addr) (l : List Byte) : Bool :=
  l.zipIdx.all fun p =>
    s.plain (a + BitVec.ofNat 27 p.2) && (s.allows .fetch (a + BitVec.ofNat 27 p.2) &&
      (!s.stale .fetch (a + BitVec.ofNat 27 p.2) && s.mem.byteAt (a + BitVec.ofNat 27 p.2) == some p.1))

theorem allReadable_of {s : State} {a : Addr} {n : Nat} (h : canRead s a n = true) : AllReadable s a n := by
  intro k hk
  have h1 := List.all_eq_true.1 h k (List.mem_range.2 hk)
  simp only [Bool.and_eq_true, Option.isSome_iff_exists] at h1
  obtain ⟨h2, h3, b, h4⟩ := h1
  exact ⟨b, h2, h3, rfl, h4⟩

theorem allWritable_of {s : State} {a : Addr} {n : Nat} (h : canWrite s a n = true) : AllWritable s a n := by
  intro k hk
  have h1 := List.all_eq_true.1 h k (List.mem_range.2 hk)
  simp only [Bool.and_eq_true] at h1
  exact h1

theorem fetchable_of {s : State} {a : Addr} {l : List Byte} (h : canFetch s a l = true) : Fetchable s a l := by
  intro k hk
  have h1 := List.all_eq_true.1 h (l[k], k) (by rw [List.mem_zipIdx_iff_getElem?]; simp [hk])
  simp only [Bool.and_eq_true, beq_iff_eq, Bool.not_eq_true'] at h1
  exact h1

/-- The trap of `n` can be delivered, by tests. -/
theorem deliverable_of {s : State} {n : IntNo}
    (h : (s.enabled n && (canRead s (handlerAddr s n) 3 && (elementAt s .tri (handlerAddr s n) != 0#27 &&
      canWrite s s.entryBase 99))) = true) : Deliverable s n := by
  simp only [Bool.and_eq_true, bne_iff_ne] at h
  exact ⟨h.1, allReadable_of h.2.1, h.2.2.1, allWritable_of h.2.2.2⟩

/-- A small state for one instruction: R2 points to data, R3 holds 2, R5 a page address; AD R1, R2, R3 at pc. -/
def w : State :=
  small [(2, 0x2000#27), (3, 2#27), (4, 3#27), (5, 0x1000#27)] 0#27 0x100#27
    [(0x100, 0x044#9), (0x101, 0x000#9), (0x102, 0x060#9), (0x2000, 1#9), (0x2001, 2#9), (0x2002, 3#9), (0x2003, 4#9)]

/-- Other values of parameters: status flags the other way round, the program counter R7, other conditions. -/
def otherSettings : Settings :=
  { Settings.default with
    flagBits := ⟨3, 2, 1, 0, by decide⟩
    specialRegs := ⟨4, 5, 6, 7, by decide⟩
    condTable := CondTable.default.set 14 (some .s)
    flagCO := .function
    shiftOver := .function
    fetchCoherent := false }

/-- Every number enabled, R28 far from its page's ends; frames downward or upward. -/
def wTrap (up : Bool) : State := trapState [] 0x1FF0#27 0x100#27 [(0x100, 0x1FF#9), (0x101, 0x1FF#9)] up

/-- Destinations at the ends of their range, and where the program counter is another register. -/
theorem witness_destination :
    (0 : RegNo) ≠ w.pcReg ∧ (30 : RegNo) ≠ w.pcReg ∧ (31 : RegNo) ≠ State.pcReg { w with settings := otherSettings } := by decide
theorem witness_destinationPair :
    PairDest w 0 ∧ PairDest w 29 ∧ PairDest { w with settings := otherSettings } 31 ∧ ¬ PairDest w 30 ∧ ¬ PairDest w 31 := by
  unfold PairDest; decide

theorem witness_AddWords : (1 : RegNo) ≠ w.pcReg := by decide
theorem witness_AddPairs : PairDest w 29 := by unfold PairDest; decide
theorem witness_SubtractWords : (30 : RegNo) ≠ w.pcReg := by decide
theorem witness_SubtractPairs : PairDest w 0 := by unfold PairDest; decide
theorem witness_MultiplyWords : (2 : RegNo) ≠ w.pcReg := by decide
theorem witness_MultiplyPairs : PairDest w 3 := by unfold PairDest; decide
theorem witness_DivideWordsUnsigned : (1 : RegNo) ≠ w.pcReg ∧ w.x 3 ≠ 0#27 ∧ (1#7 : BitVec 7) ≠ 0#7 := by decide
theorem witness_DivideWordsSigned : (1 : RegNo) ≠ w.pcReg ∧ w.x 3 ≠ 0#27 ∧ (0x7F#7 : BitVec 7) ≠ 0#7 := by decide
theorem witness_DividePairsUnsigned : PairDest w 1 ∧ w.xx 3 ≠ 0#54 ∧ (1#7 : BitVec 7) ≠ 0#7 := by unfold PairDest; decide
theorem witness_DividePairsSigned : PairDest w 29 ∧ w.xx 3 ≠ 0#54 ∧ (0x40#7 : BitVec 7) ≠ 0#7 := by unfold PairDest; decide
theorem witness_ZeroDivisorRaises : w.x 6 = 0#27 ∧ w.xx 6 = 0#54 := by decide
theorem witness_ProgramCounterDestinationRefused :
    w.x 3 ≠ 0#27 ∧ w.xx 3 ≠ 0#54 ∧ (1#7 : BitVec 7) ≠ 0#7 ∧ ((31 : RegNo) = w.pcReg ∧ (30 : RegNo) + 1 = w.pcReg) := by decide
theorem witness_LogicWords : (30 : RegNo) ≠ w.pcReg := by decide
theorem witness_LogicPairs : PairDest w 29 := by unfold PairDest; decide
theorem witness_ShiftWords : (30 : RegNo) ≠ w.pcReg := by decide
theorem witness_ShiftPairs : PairDest w 29 := by unfold PairDest; decide
theorem witness_RotateWords : (0 : RegNo) ≠ w.pcReg := by decide
theorem witness_RotatePairs : PairDest w 29 := by unfold PairDest; decide
theorem witness_MovesAndExtends : (30 : RegNo) ≠ w.pcReg := by decide
theorem witness_RandomCompletes : (29 : RegNo) ≠ w.pcReg ∧ (29 : RegNo) + 1 ≠ w.pcReg := by decide
theorem witness_FloatArithmetic : (29 : RegNo) ≠ w.pcReg ∧ (29 : RegNo) + 1 ≠ w.pcReg := by decide
theorem witness_FloatDivision : (29 : RegNo) ≠ w.pcReg ∧ (29 : RegNo) + 1 ≠ w.pcReg := by decide
theorem witness_FloatCompareNegateConvert : (30 : RegNo) ≠ w.pcReg ∧ PairDest w 29 := by unfold PairDest; decide
theorem witness_FlagTransfers : (30 : RegNo) ≠ w.pcReg := by decide

/-- Condition values that are taken, passed by, and without a row, by default and in another table. -/
theorem witness_ConditionalTransfers :
    Takes w 0 ∧ Takes w 15 ∧ Passes w 1 ∧ w.settings.condTable[14] = none ∧ Passes { w with settings := otherSettings } 14 := by
  refine ⟨⟨_, rfl, ?_⟩, ⟨_, rfl, trivial⟩, ⟨_, rfl, ?_⟩, rfl, ⟨_, rfl, ?_⟩⟩
  · change ¬ zOf w = true; decide
  · change ¬ zOf w = true; decide
  · change ¬ sOf { w with settings := otherSettings } = true; decide
theorem witness_ConditionsAfterCompare :
    w.settings.condTable = .default ∧ w.settings.subOverflow = .source ∧
      State.subOverflow { w with settings := { Settings.default with subOverflow := .standard } } = .standard := ⟨rfl, rfl, rfl⟩
theorem witness_ReservedFieldsRaise : w.settings.condTable = .default := rfl

theorem witness_LoadsComplete_mode0 : (0 : Fin 4) ≠ 3 ∧ AllReadable w (w.moveLoc .tri 2 0 0 1#27) (moved .tri 0) :=
  ⟨by decide, allReadable_of (by decide)⟩
theorem witness_LoadsComplete_mode2 : (2 : Fin 4) ≠ 3 ∧ AllReadable w (w.moveLoc .single 2 3 2 4#27) (moved .single 3) :=
  ⟨by decide, allReadable_of (by decide)⟩
theorem witness_StoresComplete :
    (1 : Fin 4) ≠ 3 ∧ ((2 : RegNo) = w.pcReg → (1 : Fin 4) = 0) ∧ AllWritable w (w.moveLoc .word 2 1 1 0#27) (moved .word 1) :=
  ⟨by decide, by decide, allWritable_of (by decide)⟩
theorem witness_StoresComplete_pc :
    (0 : Fin 4) ≠ 3 ∧ (w.pcReg = w.pcReg → (0 : Fin 4) = 0) ∧
      AllWritable w (w.moveLoc .single w.pcReg 0 0 0x1F00#27) (moved .single 0) :=
  ⟨by decide, by decide, allWritable_of (by decide)⟩
theorem witness_StoreUpdatingPcRefused :
    ((1 : Fin 4) = 1 ∨ (1 : Fin 4) = 2) ∧ AllWritable w (w.moveLoc .single w.pcReg 0 1 0x1F00#27) (moved .single 0) :=
  ⟨by decide, allWritable_of (by decide)⟩
theorem witness_StoreUpdatingPcRefused_mode2 :
    ((2 : Fin 4) = 1 ∨ (2 : Fin 4) = 2) ∧ AllWritable w (w.moveLoc .single w.pcReg 0 2 0x1F01#27) (moved .single 0) :=
  ⟨by decide, allWritable_of (by decide)⟩

/-- The first byte of page 9, which allows nothing, is the second byte of the second Word. -/
theorem witness_LoadDeniedPartWay :
    let s : State := { w with mem := [(0x23FD, 1#9), (0x23FE, 2#9), (0x23FF, 3#9)] }
    let loc := s.moveLoc .word 2 1 0 0x3FD#27
    (0 : Fin 4) ≠ 3 ∧ AllReadable s loc (1 * Size.word.bytes + 1) ∧ s.plain (loc + BitVec.ofNat 27 3) = true ∧
      s.allows .read (loc + BitVec.ofNat 27 3) = false :=
  ⟨by decide, allReadable_of (by decide), by decide, by decide⟩
/-- Denied at the first byte. -/
theorem witness_LoadDeniedPartWay_first :
    let loc := w.moveLoc .word 2 0 0 0x400#27
    AllReadable w loc (0 * Size.word.bytes + 0) ∧ w.plain (loc + BitVec.ofNat 27 0) = true ∧
      w.allows .read (loc + BitVec.ofNat 27 0) = false :=
  ⟨allReadable_of (by decide), by decide, by decide⟩
theorem witness_StoreDeniedPartWay :
    let loc := w.moveLoc .tri 2 0 0 0x3FE#27
    (0 : Fin 4) ≠ 3 ∧ AllWritable w loc (0 * Size.tri.bytes + 2) ∧ w.plain (loc + BitVec.ofNat 27 2) = true ∧
      w.allows .write (loc + BitVec.ofNat 27 2) = false :=
  ⟨by decide, allWritable_of (by decide), by decide, by decide⟩

/-- A state whose page 0xFFFF, the last of plain memory before the devices, can be read and written, and a byte there. -/
def wEdge : State := { w with mem := [(0x3FFFFFF, 5#9)], prot := [(0xFFFF, 2#2)] }
/-- The second byte of a Word lies in the clock's range. -/
theorem witness_AccessesThatStop_region :
    (0 : Fin 4) ≠ 3 ∧ 1 < moved .word 0 ∧ AllReadable wEdge (wEdge.moveLoc .word 0 0 0 0x3FFFFFF#27) 1 ∧
      AllWritable wEdge (wEdge.moveLoc .word 0 0 0 0x3FFFFFF#27) 1 ∧
        wEdge.plain (wEdge.moveLoc .word 0 0 0 0x3FFFFFF#27 + BitVec.ofNat 27 1) = false :=
  ⟨by decide, by decide, allReadable_of (by decide), allWritable_of (by decide), by decide⟩
/-- The first byte lies outside the pointer table. -/
theorem witness_AccessesThatStop_first :
    0 < moved .single 0 ∧ AllReadable w (w.moveLoc .single 0 0 0 0x7FFFF1B#27) 0 ∧
      w.plain (w.moveLoc .single 0 0 0 0x7FFFF1B#27 + BitVec.ofNat 27 0) = false :=
  ⟨by decide, allReadable_of (by decide), by decide⟩
/-- The last byte of three is one that nothing has written. -/
theorem witness_AccessesThatStop_unwritten :
    let loc := w.moveLoc .tri 2 0 0 2#27
    2 < moved .tri 0 ∧ AllReadable w loc 2 ∧ w.plain (loc + BitVec.ofNat 27 2) = true ∧
      w.allows .read (loc + BitVec.ofNat 27 2) = true ∧ w.mem.byteAt (loc + BitVec.ofNat 27 2) = none :=
  ⟨by decide, allReadable_of (by decide), by decide, by decide, by decide⟩

/-- R68 at its boundary addresses. -/
theorem witness_ProtectionAndMap_map :
    w.plain 0x3FFFFFF#27 = true ∧ w.plain 0x4000000#27 = false ∧ w.plain 0x7FFFEFF#27 = false ∧ w.plain 0x7FFFF00#27 = true ∧
      w.plain 0x7FFFF1A#27 = true ∧ w.plain 0x7FFFF1B#27 = false ∧ w.regionRefusal 0x4000000#27 = .deviceAccess .clock 0x4000000#27 ∧
        w.regionRefusal 0x7FFFF1B#27 = .unmappedAccess 0x7FFFF1B#27 := by decide
/-- R71: pages of all four values. -/
theorem witness_ProtectionAndMap_values :
    w.settings.perm = .default ∧ w.settings.memMap = .default ∧ w.prot.ofPage (0x400#27 : Addr).toNat = 0#2 ∧
      State.protAt { w with prot := [(1, 1#2)] } 0x400#27 = 1#2 ∧ w.protAt 0x1000#27 = 2#2 ∧ w.protAt 0#27 = 3#2 := by decide
/-- A range after others in the map, and an address in none. -/
theorem witness_ProtectionAndMap_ranges :
    (w.settings.memMap = w.settings.memMap.take 9 ++ ⟨0x7FFFF00, 0x7FFFF1A, .pointerTable⟩ :: w.settings.memMap.drop 10 ∧
      ∀ q ∈ w.settings.memMap.take 9, 0x7FFFF00 < q.first ∨ q.last < 0x7FFFF00) ∧
    ∀ q ∈ w.settings.memMap, 0x7FFFF1B < q.first ∨ q.last < 0x7FFFF1B := by decide
theorem witness_ProtectionAndMap_stale :
    State.stale { w with settings := otherSettings, stored := [(5, ())] } .fetch 5#27 = true := by decide

/-- Every byte of a copy can be read and written, by tests; reads that lie in what was copied count as readable. -/
def canCopy (s : State) (dst src : Addr) (n : Nat) : Bool :=
  (List.range n).all fun q =>
    let a := src + BitVec.ofNat 27 q
    (s.plain a && (s.allows .read a && ((s.mem.byteAt a).isSome || decide ((a - dst).toNat < q)))) &&
      (s.plain (dst + BitVec.ofNat 27 q) && s.allows .write (dst + BitVec.ofNat 27 q))

theorem copyRuns_of {s : State} {dst src : Addr} {n : Nat} (h : canCopy s dst src n = true) : CopyRuns s dst src n := by
  intro q hq
  have h1 := List.all_eq_true.1 h q (List.mem_range.2 hq)
  simp only [Bool.and_eq_true, Bool.or_eq_true, decide_eq_true_eq, Option.isSome_iff_ne_none] at h1
  exact ⟨⟨h1.1.1, h1.1.2.1, h1.1.2.2⟩, h1.2⟩

/-- Overlapping source and destination, the destination one byte on; the last byte read is one that the copy wrote. -/
theorem witness_TransferCopies :
    let s : State := { w with mem := [(0x2000, 7#9)] }
    CopyRuns s 0x2001#27 0x2000#27 3 ∧ CopyRuns s 0x2001#27 0x2000#27 0 :=
  ⟨copyRuns_of (by decide), copyRuns_of (by decide)⟩
/-- The third byte of the source is denied, outside plain memory, or one that nothing has written. -/
theorem witness_TransferCopies_read :
    (let s : State := { w with mem := [(0x23FE, 1#9), (0x23FF, 2#9)] };
      CopyRuns s 0x2000#27 0x23FE#27 2 ∧ s.plain (0x23FE#27 + BitVec.ofNat 27 2) = true ∧
        s.allows .read (0x23FE#27 + BitVec.ofNat 27 2) = false) ∧
    (let s : State := { wEdge with prot := [(8, 2#2), (0xFFFF, 2#2)] };
      CopyRuns s 0x2000#27 0x3FFFFFF#27 1 ∧ s.plain (0x3FFFFFF#27 + BitVec.ofNat 27 1) = false) ∧
    (CopyRuns w 0x2200#27 0x2002#27 2 ∧ w.plain (0x2002#27 + BitVec.ofNat 27 2) = true ∧
      w.allows .read (0x2002#27 + BitVec.ofNat 27 2) = true ∧ w.mem.byteAt (0x2002#27 + BitVec.ofNat 27 2) = none ∧
        2 ≤ (0x2002#27 + BitVec.ofNat 27 2 - 0x2200#27 : Addr).toNat) :=
  ⟨⟨copyRuns_of (by decide), by decide, by decide⟩, ⟨copyRuns_of (by decide), by decide⟩,
    ⟨copyRuns_of (by decide), by decide, by decide, by decide, by decide⟩⟩
/-- The second byte of the destination is denied, or outside plain memory. -/
theorem witness_TransferCopies_write :
    (CopyRuns w 0x23FF#27 0x2000#27 1 ∧ CopyReads w 0x23FF#27 0x2000#27 1 ∧ w.plain (0x23FF#27 + BitVec.ofNat 27 1) = true ∧
      w.allows .write (0x23FF#27 + BitVec.ofNat 27 1) = false) ∧
    (let s : State := { w with prot := [(8, 2#2), (0xFFFF, 2#2)] };
      CopyRuns s 0x3FFFFFF#27 0x2000#27 1 ∧ CopyReads s 0x3FFFFFF#27 0x2000#27 1 ∧
        s.plain (0x3FFFFFF#27 + BitVec.ofNat 27 1) = false) := by
  refine ⟨⟨copyRuns_of (by decide), ?_, by decide, by decide⟩, ⟨copyRuns_of (by decide), ?_, by decide⟩⟩ <;>
    exact ⟨by decide, by decide, .inl (by decide)⟩
theorem witness_ByteOrderOfData :
    AllReadable w 0x2001#27 Size.tri.bytes ∧ AllWritable w 0x2001#27 Size.tri.bytes ∧
      ∀ j < Size.tri.bytes, w.allows .read (0x2001#27 + BitVec.ofNat 27 j) = true :=
  ⟨allReadable_of (by decide), allWritable_of (by decide), by decide⟩

set_option maxRecDepth 20000 in
theorem witness_TrapEntryDelivers : Deliverable (wTrap false) 0 := deliverable_of (by decide)
set_option maxRecDepth 20000 in
theorem witness_TrapEntryDelivers_upward : Deliverable (wTrap true) 8 := deliverable_of (by decide)
set_option maxRecDepth 20000 in
theorem witness_InterruptReturnUndoesTrapEntry : Deliverable (wTrap false) 5 ∧ (wTrap false).settings.perm = .default :=
  ⟨deliverable_of (by decide), rfl⟩
theorem witness_UndeliverableTrapFaults_disabled : ¬ Deliverable w 4 := fun h => absurd h.1 (by unfold Enabled; decide)
theorem witness_UndeliverableTrapFaults_noHandler :
    ¬ Deliverable { wTrap false with mem := [(0x7FFFF0C, 0#9), (0x7FFFF0D, 0#9), (0x7FFFF0E, 0#9)] } 4 :=
  fun h => h.2.2.1 (by decide)
theorem witness_UndeliverableTrapFaults_frame : ¬ Deliverable { wTrap false with prot := [(0x1FFFF, 2#2)] } 4 :=
  fun h => absurd (h.2.2.2 98 (by decide)).2 (by decide)
set_option maxRecDepth 20000 in
theorem witness_InterruptReturnRestores : AllReadable frameState (frameState.x frameState.stReg) 99 := allReadable_of (by decide)
/-- The second byte of a frame is denied, outside plain memory, or one that nothing has written. -/
theorem witness_InterruptReturnRestores_stops :
    (let s := small [(28, 0x23FF#27)] 0#27 0x100#27 [(0x23FF, 1#9)];
      AllReadable s (s.x s.stReg) 1 ∧ s.plain (s.x s.stReg + BitVec.ofNat 27 1) = true ∧
        s.allows .read (s.x s.stReg + BitVec.ofNat 27 1) = false) ∧
    (let s : State := { small [(28, 0x3FFFFFF#27)] 0#27 0x100#27 [(0x3FFFFFF, 1#9)] with prot := [(0xFFFF, 2#2)] };
      AllReadable s (s.x s.stReg) 1 ∧ s.plain (s.x s.stReg + BitVec.ofNat 27 1) = false) ∧
    (let s := small [(28, 0x2000#27)] 0#27 0x100#27 [(0x2000, 1#9)];
      AllReadable s (s.x s.stReg) 1 ∧ s.plain (s.x s.stReg + BitVec.ofNat 27 1) = true ∧
        s.allows .read (s.x s.stReg + BitVec.ofNat 27 1) = true ∧ s.mem.byteAt (s.x s.stReg + BitVec.ofNat 27 1) = none) :=
  ⟨⟨allReadable_of (by decide), by decide, by decide⟩, ⟨allReadable_of (by decide), by decide⟩,
    ⟨allReadable_of (by decide), by decide, by decide, by decide⟩⟩

theorem noneTaken_of {s : State} (h : s.pending = 0#9) : NoneTaken s := fun m c => by
  have := c.2.1
  rw [h] at this
  simp at this

set_option maxRecDepth 8000 in
theorem witness_StepRunsDecodedInstruction :
    w.runState = .running ∧ NoneTaken (afterEvents w) ∧ Fetchable (afterEvents w) w.pc [0x044, 0x000, 0x060] ∧
      decode w.settings [0x044, 0x000, 0x060] = .ok (.ad 1 2 3 false, []) :=
  ⟨rfl, noneTaken_of rfl, fetchable_of (by decide), by decide⟩

/-- A core at `pc` with these bytes there, in page 0. -/
def wFetch (pc : Nat) (l : List Byte) : State := small [] 0#27 (BitVec.ofNat 27 pc) (l.zipIdx.map fun p => (pc + p.2, p.1))

/-- The premises of a fetch: Running, no interrupt taken, these bytes fetched. -/
def Fetches (s : State) (l : List Byte) : Prop :=
  s.runState = .running ∧ NoneTaken (afterEvents s) ∧ Fetchable (afterEvents s) s.pc l

theorem witness_FetchExceptions_unassigned :
    let s := wFetch 0x100 [0x044, 0x000, 0x064]
    Fetches s [0x044, 0x000, 0x064] ∧ lengthOf (wordOfBytes s.settings.fetchOrder (List.take 2 [0x044, 0x000, 0x064])) = some 3 ∧
      decode s.settings [0x044, 0x000, 0x064] = .error .unassigned :=
  ⟨⟨rfl, noneTaken_of rfl, fetchable_of (by decide)⟩, by decide, by decide⟩
theorem witness_FetchExceptions_noLength :
    let s := wFetch 0x100 [0x000, 0x1D0]
    Fetches s [0x000, 0x1D0] ∧ lengthOf (wordOfBytes s.settings.fetchOrder (List.take 2 [0x000, 0x1D0])) = none :=
  ⟨⟨rfl, noneTaken_of rfl, fetchable_of (by decide)⟩, by decide⟩
/-- Denied at the first byte, and at the second. -/
theorem witness_FetchExceptions_denied :
    (Fetches (wFetch 0x400 []) [] ∧ (wFetch 0x400 []).plain 0x400#27 = true ∧ (wFetch 0x400 []).allows .fetch 0x400#27 = false) ∧
    (Fetches (wFetch 0x3FF [0x044]) [0x044] ∧ (wFetch 0x3FF [0x044]).plain 0x400#27 = true ∧
      (wFetch 0x3FF [0x044]).allows .fetch 0x400#27 = false) :=
  ⟨⟨⟨rfl, noneTaken_of rfl, fetchable_of (by decide)⟩, by decide, by decide⟩,
    ⟨⟨rfl, noneTaken_of rfl, fetchable_of (by decide)⟩, by decide, by decide⟩⟩
/-- T6: denied at the third byte of three. -/
theorem witness_FetchExceptions_deniedLater :
    let s := wFetch 0x3FE [0x044, 0x000]
    Fetches s [0x044, 0x000] ∧ lengthOf (wordOfBytes s.settings.fetchOrder (List.take 2 [0x044, 0x000])) = some 3 ∧
      s.plain (s.pc + BitVec.ofNat 27 2) = true ∧ s.allows .fetch (s.pc + BitVec.ofNat 27 2) = false :=
  ⟨⟨rfl, noneTaken_of rfl, fetchable_of (by decide)⟩, by decide, by decide, by decide⟩
/-- Outside plain memory, at the second byte; and one that nothing has written, at the third. -/
theorem witness_FetchExceptions_stops :
    (let s : State := { wFetch 0x3FFFFFF [0x044] with prot := [(0xFFFF, 3#2)] };
      Fetches s [0x044] ∧ s.plain (s.pc + BitVec.ofNat 27 1) = false) ∧
    (let s := wFetch 0x100 [0x044, 0x000];
      Fetches s [0x044, 0x000] ∧ lengthOf (wordOfBytes s.settings.fetchOrder (List.take 2 [0x044, 0x000])) = some 3 ∧
        s.plain (s.pc + BitVec.ofNat 27 2) = true ∧ s.allows .fetch (s.pc + BitVec.ofNat 27 2) = true ∧
          s.stale .fetch (s.pc + BitVec.ofNat 27 2) = false ∧ s.mem.byteAt (s.pc + BitVec.ofNat 27 2) = none) :=
  ⟨⟨⟨rfl, noneTaken_of rfl, fetchable_of (by decide)⟩, by decide⟩,
    ⟨⟨rfl, noneTaken_of rfl, fetchable_of (by decide)⟩, by decide, by decide, by decide, by decide, by decide⟩⟩
/-- The second byte was stored since the program was loaded, and fetches are not coherent with stores. -/
theorem witness_FetchExceptions_stale :
    let s : State := { wFetch 0x100 [0x044, 0x000] with
      settings := { Settings.default with fetchCoherent := false }, stored := [(0x101, ())] }
    Fetches s [0x044] ∧ s.plain (s.pc + BitVec.ofNat 27 1) = true ∧ s.allows .fetch (s.pc + BitVec.ofNat 27 1) = true ∧
      s.stale .fetch (s.pc + BitVec.ofNat 27 1) = true :=
  ⟨⟨rfl, noneTaken_of rfl, fetchable_of (by decide)⟩, by decide, by decide, by decide⟩

theorem witness_BoundaryTakesInterrupt :
    let s : State := { wTrap false with pending := 0b1010#9 }
    s.runState = .running ∧ TakenAt (afterEvents s) 1 ∧ s.settings.intPriority = .default ∧
      (∀ m : IntNo, m < 1 → ¬ CanTake (afterEvents s) m) := by
  refine ⟨rfl, ⟨by unfold CanTake Enabled; decide, [0], [2, 3, 4, 5, 6, 7, 8], by decide, ?_⟩, rfl, ?_⟩ <;>
    (unfold CanTake Enabled; decide)
/-- Of 1 and 3, an order that begins with 3 takes 3. -/
theorem witness_BoundaryTakesInterrupt_order :
    let s : State := { wTrap false with
      pending := 0b1010#9, settings := { Settings.default with intPriority := ⟨[3, 0, 1, 2, 4, 5, 6, 7, 8], by decide⟩ } }
    s.runState = .running ∧ TakenAt (afterEvents s) 3 := by
  refine ⟨rfl, by unfold CanTake Enabled; decide, [], [0, 1, 2, 4, 5, 6, 7, 8], by decide, ?_⟩
  unfold CanTake Enabled; decide
theorem witness_BoundaryTakesInterrupt_waiting :
    let s : State := { wTrap false with runState := .waiting, arrivals := [0b100000000#9] }
    s.runState = .waiting ∧ TakenAt (afterEvents s) 8 := by
  refine ⟨rfl, by unfold CanTake Enabled; decide, [0, 1, 2, 3, 4, 5, 6, 7], [], by decide, ?_⟩
  unfold CanTake Enabled; decide
theorem witness_RestingStates :
    let s : State := { w with runState := .waiting }
    s.runState = .waiting ∧ NoneTaken (afterEvents s) ∧ (State.runState { w with runState := .halted } = .halted) ∧
      (State.runState { w with runState := .faulted } = .faulted) :=
  ⟨rfl, noneTaken_of rfl, rfl, rfl⟩

theorem witness_ProtectionRequests_clean :
    CleanRequest (w.x 5) (w.x 4) ∧ (w.x 4).toNat ≤ 13 ∧ CleanRequest 0x7FFFC00#27 1#27 ∧ CleanRequest 0#27 13#27 ∧
      (6 : RegNo) ≠ w.pcReg ∧ w.settings.rmpPack = .default := by
  refine ⟨?_, ?_, ?_, ?_, ?_, rfl⟩ <;> (try unfold CleanRequest) <;> decide
theorem witness_ProtectionRequests_outside :
    ¬ CleanRequest 0x1001#27 1#27 ∧ ¬ CleanRequest 0x1000#27 0#27 ∧ ¬ CleanRequest 0x7FFFC00#27 2#27 ∧
      (CleanRequest 0#27 14#27 ∧ 13 < (14#27).toNat) := by unfold CleanRequest; decide

theorem witness_DecodeAfterEncode :
    [Instr.ad 1 2 3 true, .b 15 0x1FFFF#17, .stt 31 28 31 2 0x7FFFFFF#27, .dbrk].all (WellFormed Settings.default.condTable) = true ∧
      WellFormed otherSettings.condTable (.b 14 0#17) = true := by decide
set_option maxRecDepth 8000 in
theorem witness_DecodeOnlyEncodings : decode .default [0x0C0, 0x140, 0x005] = .ok (.ht, [0x005]) := by decide

/-- A sound launch configuration with a program, a protection and registers. -/
theorem witness_ResetHasInvariant :
    Launch.Sound { Launch.default with
      settings := otherSettings, resetPC := 4#27, registers := Vector.replicate 32 7#27, mem := [(4, 1#9)], prot := [(0, 3#2)] } :=
  ⟨by decide, by decide, by decide⟩
theorem witness_StepKeepsInvariant : w.Inv ∧ ∃ t, step w = .next t :=
  ⟨⟨by decide, by decide, by decide, by decide, by decide⟩, next_of (p := fun t => t.x 1 == 0x2002#27) (by decide)⟩
theorem witness_StepKeepsSettings : ∃ t, step w = .next t := next_of (p := fun t => t.pc == 0x103#27) (by decide)
theorem witness_InstructionsKeepMachine :
    (∃ t, exec (.ad 1 2 3 true) w = .next t) ∧ (∃ t, exec .ht w = .next t ∧ t.runState = .halted) ∧
      (∃ t, exec .wt w = .next t ∧ t.runState = .waiting) :=
  ⟨⟨_, rfl⟩, ⟨_, rfl, rfl⟩, ⟨_, rfl, rfl⟩⟩

end Sys2Proof.Tests
end

section
/-! ## Byte order of the data sizes (20_memory.md R62 to R64): a value read joins, and a value written splits, the bytes of
memory in one order. -/

namespace Sys2Proof.Machine

open Sys2Proof.Machine.Claim

/-- A list of stored bytes stands at ascending addresses. -/
theorem State.byteAt_putBytes_at (s : State) (a : Addr) {l : List Byte} (hl : l.length ≤ 2 ^ 27) {j : Nat}
    (hj : j < l.length) : (s.putBytes a l).mem.byteAt (a + BitVec.ofNat 27 j) = some l[j] := by
  have hoff : (a + BitVec.ofNat 27 j - a).toNat = j := by
    rw [add_sub_cancel_left, BitVec.toNat_ofNat, Nat.mod_eq_of_lt (by omega)]
  rw [State.byteAt_putBytes s a _ l hl, dif_pos (by omega)]
  simp only [hoff]

/-- Storing bytes changes no byte outside them. -/
theorem State.byteAt_putBytes_outside (s : State) (a q : Addr) {l : List Byte} (hl : l.length ≤ 2 ^ 27)
    (hq : l.length ≤ (q - a).toNat) : (s.putBytes a l).mem.byteAt q = s.mem.byteAt q := by
  rw [State.byteAt_putBytes s a q l hl, dif_neg (by omega)]

/-- The bytes stored at an address are the bytes that memory then holds there. -/
theorem State.bytesAt_putBytes (s : State) (a : Addr) {l : List Byte} (hl : l.length ≤ 2 ^ 27) :
    (s.putBytes a l).bytesAt a l.length = l := by
  refine List.ext_getElem (by simp [State.bytesAt]) fun j _ hj => ?_
  simp [State.bytesAt, State.byteAt_putBytes_at s a hl hj]

/-- A value takes few enough bytes that its last does not wrap onto its first. -/
theorem Size.split_length_le (z : Size) (v : Word) : (z.split v).length ≤ 2 ^ 27 := by
  cases z <;> simp [Size.bytes]

/-- Joining bit vectors puts the first above the second. -/
theorem toNat_append_eq_add {m n : Nat} (x : BitVec m) (y : BitVec n) : (x ++ y).toNat = x.toNat * 2 ^ n + y.toNat := by
  rw [BitVec.toNat_append, ← Nat.shiftLeft_add_eq_or_of_lt y.isLt, Nat.shiftLeft_eq]

/-- A slice of a value is its quotient by the weight of the slice's lowest bit. -/
theorem extractLsb'_eq_ofNat_div {w : Nat} (v : BitVec w) (i n : Nat) :
    v.extractLsb' i n = BitVec.ofNat n (v.toNat / 2 ^ i) := by
  apply BitVec.eq_of_toNat_eq
  rw [BitVec.extractLsb'_toNat, Nat.shiftRight_eq_div_pow, BitVec.toNat_ofNat]

/-- A Single is its byte (R62). -/
theorem Size.join_single (a : Byte) : Size.single.join [a] = BitVec.ofNat 27 a.toNat :=
  BitVec.eq_of_toNat_eq (BitVec.toNat_setWidth ..)

/-- A Word is its first byte above its second (R63). -/
theorem Size.join_word (a b : Byte) : Size.word.join [a, b] = BitVec.ofNat 27 (a.toNat * 2 ^ 9 + b.toNat) := by
  apply BitVec.eq_of_toNat_eq
  rw [Size.join, BitVec.toNat_setWidth, toNat_append_eq_add, BitVec.toNat_ofNat]

/-- A Tri is its second byte above its first above its third (R64). -/
theorem Size.join_tri (a b c : Byte) :
    Size.tri.join [a, b, c] = BitVec.ofNat 27 (a.toNat * 2 ^ 9 + b.toNat * 2 ^ 18 + c.toNat) := by
  have weights : (b.toNat * 2 ^ 9 + a.toNat) * 2 ^ 9 + c.toNat = a.toNat * 2 ^ 9 + b.toNat * 2 ^ 18 + c.toNat := by omega
  apply BitVec.eq_of_toNat_eq
  rw [Size.join, BitVec.toNat_setWidth, toNat_append_eq_add, toNat_append_eq_add, weights, BitVec.toNat_ofNat]

/-- Joining the bytes of memory gives the element that the byte order reads there. -/
theorem Size.join_bytesAt (s : State) (z : Size) (a : Addr) : z.join (s.bytesAt a z.bytes) = elementAt s z a := by
  cases z with
  | single => simp [Size.bytes, State.bytesAt, Size.join_single, elementAt, byteOf]
  | word => simp [Size.bytes, State.bytesAt, List.range_succ, Size.join_word, elementAt, byteOf]
  | tri => simp [Size.bytes, State.bytesAt, List.range_succ, Size.join_tri, elementAt, byteOf]

/-- Byte `j` of a split value is the slice of it that the byte order names. -/
theorem Size.split_getElem (z : Size) (v : Word) (j : Nat) (hj : j < (z.split v).length) :
    (z.split v)[j] = storedByte z v j := by
  rw [Size.split_length] at hj
  match z, j, hj with
  | .single, 0, _ | .word, 0, _ | .word, 1, _ | .tri, 0, _ | .tri, 1, _ | .tri, 2, _ =>
    simp [Size.split, storedByte, extractLsb'_eq_ofNat_div]

/-- Joining a split value keeps its low 9, 18 or 27 bits, as a number. -/
theorem Size.join_split_eq_mod (z : Size) (v : Word) :
    z.join (z.split v) = BitVec.ofNat 27 (v.toNat % 2 ^ (9 * z.bytes)) := by
  rw [Size.join_split]
  apply BitVec.eq_of_toNat_eq
  simp

/-- A value whose bytes can be read is the one the byte order gives. -/
theorem State.readValue_eq_elementAt {s : State} {z : Size} {a : Addr} (h : AllReadable s a z.bytes) :
    s.readValue z a = .ok (elementAt s z a) := by
  rw [State.readValue_of_readable h, Size.join_bytesAt]

/-- A value whose bytes can be written is stored as its bytes, in the byte order of its size. -/
theorem State.writeValue_of_writable {s : State} {z : Size} {a : Addr} (v : Word) (h : AllWritable s a z.bytes) :
    s.writeValue z a v = .done (s.putBytes a (z.split v)) :=
  State.writeBytes_of_writable (by rw [Size.split_length]; exact h)

/-- A stored value is read back, cut to its width, where the pages allow reading. -/
theorem State.readValue_putBytes {s : State} {z : Size} {a : Addr} (v : Word) (hw : AllWritable s a z.bytes)
    (hr : ∀ j < z.bytes, s.allows .read (a + BitVec.ofNat 27 j) = true) :
    (s.putBytes a (z.split v)).readValue z a = .ok (BitVec.ofNat 27 (v.toNat % 2 ^ (9 * z.bytes))) := by
  have readable : AllReadable (s.putBytes a (z.split v)) a z.bytes := fun j hj =>
    ⟨_, by simpa using (hw j hj).1, by simpa using hr j hj, State.stale_read _ _,
      State.byteAt_putBytes_at s a (z.split_length_le v) (by simpa using hj)⟩
  have bytes : (s.putBytes a (z.split v)).bytesAt a z.bytes = z.split v := by
    simpa using s.bytesAt_putBytes a (z.split_length_le v)
  rw [State.readValue_of_readable readable, bytes, Size.join_split_eq_mod]

/-- Settles O51: a read joins, and a write splits, by the same byte order; the two agree on what a value keeps. -/
theorem byteOrderOfData : Obligations.ByteOrderOfData := by
  intro s a v
  refine ⟨fun z => State.readValue_eq_elementAt, fun z hw => ⟨_, State.writeValue_of_writable v hw, ?_, ?_, ?_⟩⟩
  · intro j hj
    have hj' : j < (z.split v).length := by simpa using hj
    rw [State.byteAt_putBytes_at s a (z.split_length_le v) hj', Size.split_getElem]
  · intro b hb
    exact State.byteAt_putBytes_outside s a b (z.split_length_le v) (by simpa using hb)
  · exact State.readValue_putBytes v hw

end Sys2Proof.Machine
end

section
/-! ## Unconditional branches (46_branch_call.md R333, R334): format A36 carries the 27-bit operand whole, and a jump changes
the program counter only. -/

namespace Sys2Proof

/-- The operand field of `packA36`. -/
theorem packA36_imm (op : Nat) (v : BitVec 27) : immAt 27 (packA36 op v) 0 = v := by
  apply BitVec.eq_of_toNat_eq
  simp only [immAt, packA36, BitVec.toNat_ofNat]
  omega

/-- The word of BRA decodes to it, with its location (30_encoding.md R117, R120). -/
theorem decode36_bra (v : BitVec 27) : decode36 (packA36 452 v) = .ok (.bra v) := by
  simp only [decode36, packA36_top, packA36_imm]
  rfl

/-- The word of BRR decodes to it, with its offset (30_encoding.md R117, R120). -/
theorem decode36_brr (v : BitVec 27) : decode36 (packA36 448 v) = .ok (.brr v) := by
  simp only [decode36, packA36_top, packA36_imm]
  rfl

end Sys2Proof

namespace Sys2Proof.Machine

open Sys2Proof.Machine.Claim

/-- BRA is a jump to its location. -/
theorem exec_bra (v : BitVec 27) (s : State) : exec (.bra v) s = .next (s.jump v) := rfl

/-- BRR is a jump by its offset. -/
theorem exec_brr (v : BitVec 27) (s : State) : exec (.brr v) s = .next (s.jump (s.pc + v)) := rfl

/-- A jump writes no register but the program counter. -/
theorem State.jump_sameRegisters (s : State) (a : Addr) : SameRegisters s (s.jump a) := by
  intro q hq
  rw [State.x_jump, if_neg hq]

/-- A jump keeps memory, protections and the machine around the registers. -/
theorem State.jump_sameRest (s : State) (a : Addr) : SameRest s (s.jump a) := by
  refine ⟨⟨fun b => ?_, fun b => ?_⟩, fun p => ?_, ?_, ?_, ?_, ?_⟩ <;> simp

/-- An instruction whose effect is one jump changes the program counter only. -/
theorem jumpedTo_of_exec_eq_jump {i : Instr} {s : State} {a : Addr} (h : exec i s = .next (s.jump a)) : JumpedTo i s a :=
  ⟨s.jump a, h, State.jump_pc s a, s.jump_sameRegisters a, s.jump_sameRest a⟩

/-- Settles O40: both words carry the operand whole, and both instructions are one jump; the sum of BRR wraps as a number
modulo 2^27. -/
theorem unconditionalBranches : Obligations.UnconditionalBranches := by
  intro v s
  have wraps : BitVec.ofNat 27 (s.pc.toNat + v.toNat) = s.pc + v := (BitVec.add_def ..).symm
  rw [wraps]
  exact ⟨decode36_bra v, decode36_brr v, jumpedTo_of_exec_eq_jump (exec_bra v s), jumpedTo_of_exec_eq_jump (exec_brr v s)⟩

end Sys2Proof.Machine
end

section
/-! ## Interrupt enables (49_system.md R401, R402): EI and DI replace bits 4 to 12 of FLAGS as a group, and a word of either
whose last bit is set is no instruction. -/

namespace Sys2Proof

/-- The register field of `packR1`. -/
theorem packR1_reg (op : Nat) (rA : RegNo) : regAt (packR1 op rA) 1 = rA := by
  apply Fin.ext
  simp only [regAt, packR1]
  omega

/-- Format R1 reads back the register it was packed with (30_encoding.md R107). -/
theorem decodeR1_packR1 (op : Nat) (rA : RegNo) (mk : RegNo → Instr) : decodeR1 (packR1 op rA) mk = .ok (mk rA) := by
  have even : packR1 op rA % 2 = 0 := by unfold packR1; omega
  rw [decodeR1, decodeIf, if_pos even, packR1_reg]

/-- The last bit of format R1 is constant: a word that has it set is no instruction (30_encoding.md R130). -/
theorem decodeR1_packR1_succ (op : Nat) (rA : RegNo) (mk : RegNo → Instr) :
    decodeR1 (packR1 op rA + 1) mk = .error .unassigned := by
  have odd : ¬ (packR1 op rA + 1) % 2 = 0 := by unfold packR1; omega
  rw [decodeR1, decodeIf, if_neg odd]

/-- The words whose leading bits are those of the system instructions are decoded as such (30_encoding.md R120). -/
theorem decode18_system (t : CondTable) {w : Nat} (h : w / 2 ^ 10 = 160) : decode18 t w = decodeSystem18 w := by
  simp only [decode18, h]

/-- The opcode of EI selects EI, whatever its last bit. -/
theorem decodeWord_ei (t : CondTable) {w : Nat} (h : w / 2 ^ 6 = 2564) : decodeWord t 2 w = decodeR1 w .ei := by
  have sub : w / 2 ^ 6 % 32 = 4 := by omega
  rw [decodeWord, decode18_system t (by omega)]
  simp only [decodeSystem18, sub]

/-- The opcode of DI selects DI, whatever its last bit. -/
theorem decodeWord_di (t : CondTable) {w : Nat} (h : w / 2 ^ 6 = 2565) : decodeWord t 2 w = decodeR1 w .di := by
  have sub : w / 2 ^ 6 % 32 = 5 := by omega
  rw [decodeWord, decode18_system t (by omega)]
  simp only [decodeSystem18, sub]

/-- Setting the last bit of a format R1 word keeps its opcode. -/
theorem packR1_succ_top (op : Nat) (rA : RegNo) : (packR1 op rA + 1) / 2 ^ 6 = op := by
  unfold packR1
  omega

end Sys2Proof

namespace Sys2Proof.Machine

open Sys2Proof.Machine.Claim

/-- FLAGS with its nine enables replaced by the low nine bits of a word: the value that EI and DI write. -/
def enablesReplaced (f v : Word) : Word := (f &&& enableKeep) ||| ((v <<< 4) &&& enableBits)

/-- EI replaces the enables by its register. -/
theorem exec_ei (rA : RegNo) (s : State) :
    exec (.ei rA) s = .next ((s.setFlags (enablesReplaced s.flags (s.x rA))).advance 2) := rfl

/-- DI replaces the enables by the complement of its register. -/
theorem exec_di (rA : RegNo) (s : State) :
    exec (.di rA) s = .next ((s.setFlags (enablesReplaced s.flags (~~~(s.x rA)))).advance 2) := rfl

/-- The enables are bits 4 to 12 (49_system.md R400). -/
theorem enableBits_getLsbD : ∀ j < 27, enableBits.getLsbD j = decide (4 ≤ j ∧ j ≤ 12) := by decide

/-- The kept bits are all but the enables. -/
theorem enableKeep_eq_not : enableKeep = ~~~enableBits := by decide

/-- Each bit of FLAGS after its enables are replaced. -/
theorem enablesReplaced_getLsbD (f v : Word) {j : Nat} (hj : j < 27) :
    (enablesReplaced f v).getLsbD j = if 4 ≤ j ∧ j ≤ 12 then v.getLsbD (j - 4) else f.getLsbD j := by
  simp only [enablesReplaced, enableKeep_eq_not, BitVec.getLsbD_or, BitVec.getLsbD_and, BitVec.getLsbD_not,
    BitVec.getLsbD_shiftLeft, enableBits_getLsbD j hj]
  by_cases enable : 4 ≤ j ∧ j ≤ 12
  · have shifted : ¬ j < 4 := by omega
    simp [enable, shifted, hj]
  · simp [enable, hj]

/-- Writing FLAGS and moving on changes no register but FLAGS and the program counter. -/
theorem State.x_setFlags_advance (s : State) (v : Word) (len : Nat) {q : RegNo} (hf : q ≠ s.flagsReg) (hp : q ≠ s.pcReg) :
    ((s.setFlags v).advance len).x q = s.x q := by
  rw [State.x_advance, State.setFlags_pcReg, if_neg hp, State.x_setFlags, if_neg hf]

/-- Writing FLAGS and moving on keeps memory, protections and the machine around the registers. -/
theorem State.setFlags_advance_sameRest (s : State) (v : Word) (len : Nat) : SameRest s ((s.setFlags v).advance len) := by
  refine ⟨⟨fun b => ?_, fun b => ?_⟩, fun p => ?_, ?_, ?_, ?_, ?_⟩ <;> simp

/-- An instruction of two bytes whose effect is to replace the enables changes them and the program counter only. -/
theorem enables_of_exec_eq {i : Instr} {s : State} {v : Word}
    (h : exec i s = .next ((s.setFlags (enablesReplaced s.flags v)).advance 2)) :
    ∃ t, exec i s = .next t ∧
      (∀ j < 27, t.flags.getLsbD j = if 4 ≤ j ∧ j ≤ 12 then v.getLsbD (j - 4) else s.flags.getLsbD j) ∧
      (∀ q, q ≠ s.flagsReg → q ≠ s.pcReg → t.x q = s.x q) ∧ t.pc = s.pc + 2#27 ∧ SameRest s t := by
  refine ⟨_, h, fun j hj => ?_, fun q => s.x_setFlags_advance _ 2, ?_, s.setFlags_advance_sameRest _ 2⟩
  · rw [State.advance_flags, State.setFlags_flags, enablesReplaced_getLsbD _ _ hj]
  · rw [State.advance_pc, State.setFlags_pc]

/-- Settles O55: the four words share format R1, whose last bit is constant, and both instructions replace the enables, by
the register or by its complement. -/
theorem interruptEnables : Obligations.InterruptEnables := by
  intro rA s
  refine ⟨?_, ?_, ?_, ?_, enables_of_exec_eq (exec_ei rA s), enables_of_exec_eq (exec_di rA s)⟩
  · exact (decodeWord_ei _ (packR1_top 2564 rA)).trans (decodeR1_packR1 2564 rA .ei)
  · exact (decodeWord_di _ (packR1_top 2565 rA)).trans (decodeR1_packR1 2565 rA .di)
  · exact (decodeWord_ei _ (packR1_succ_top 2564 rA)).trans (decodeR1_packR1_succ 2564 rA .ei)
  · exact (decodeWord_di _ (packR1_succ_top 2565 rA)).trans (decodeR1_packR1_succ 2565 rA .di)

end Sys2Proof.Machine
end

section
/-! ## The codec (30_encoding.md R103 to R117, R120): each format reads back the fields it was packed with, and reads them only
from the word that packs them; the opcode map and the two directions of the round trip follow. -/

namespace Sys2Proof

/-! ### Formats: what was packed is read back -/

/-- Format R3 reads back its fields. -/
theorem decodeR3_packR3 (op k : Nat) (rA rB rC : RegNo) (uf : Bool) (mk : MkR3) (hk : k < 16) :
    decodeR3 k (packR3 op k rA rB rC uf) mk = .ok (mk rA rB rC uf) := by
  have huf := uf.toNat_lt
  have hc : packR3 op k rA rB rC uf / 2 % 16 = k := by unfold packR3; omega
  have hA : regAt (packR3 op k rA rB rC uf) 15 = rA := Fin.ext (by simp only [regAt, packR3]; omega)
  have hB : regAt (packR3 op k rA rB rC uf) 10 = rB := Fin.ext (by simp only [regAt, packR3]; omega)
  have hC : regAt (packR3 op k rA rB rC uf) 5 = rC := Fin.ext (by simp only [regAt, packR3]; omega)
  have hu : ufOf (packR3 op k rA rB rC uf) = uf := by cases uf <;> simp [ufOf, packR3] <;> omega
  rw [decodeR3, decodeIf, if_pos hc, hA, hB, hC, hu]

/-- Format RI reads back its fields. -/
theorem decodeRI_packRI (op k : Nat) (rA rB : RegNo) (imm : BitVec 7) (uf : Bool) (mk : MkRI) (hk : k < 4) :
    decodeRI k (packRI op k rA rB imm uf) mk = .ok (mk rA rB imm uf) := by
  have huf := uf.toNat_lt
  have hc : packRI op k rA rB imm uf / 2 % 4 = k := by unfold packRI; omega
  have hA : regAt (packRI op k rA rB imm uf) 15 = rA := Fin.ext (by simp only [regAt, packRI]; omega)
  have hB : regAt (packRI op k rA rB imm uf) 10 = rB := Fin.ext (by simp only [regAt, packRI]; omega)
  have hi : immAt 7 (packRI op k rA rB imm uf) 3 = imm :=
    BitVec.eq_of_toNat_eq (by simp only [immAt, packRI, BitVec.toNat_ofNat]; omega)
  have hu : ufOf (packRI op k rA rB imm uf) = uf := by cases uf <;> simp [ufOf, packRI] <;> omega
  rw [decodeRI, decodeIf, if_pos hc, hA, hB, hi, hu]

/-- The bits that tell the forms of a shared opcode apart. -/
theorem packR3_form (op k : Nat) (rA rB rC : RegNo) (uf : Bool) : packR3 op k rA rB rC uf / 2 % 4 = k % 4 := by
  have huf := uf.toNat_lt
  unfold packR3
  omega

/-- The bits that tell the forms of a shared opcode apart. -/
theorem packRI_form (op k : Nat) (rA rB : RegNo) (imm : BitVec 7) (uf : Bool) :
    packRI op k rA rB imm uf / 2 % 4 = k % 4 := by
  have huf := uf.toNat_lt
  unfold packRI
  omega

theorem decodeR_packR3 (op : Nat) (rA rB rC : RegNo) (uf : Bool) (r : MkR3) :
    decodeR (packR3 op 0 rA rB rC uf) r = .ok (r rA rB rC uf) := decodeR3_packR3 op 0 rA rB rC uf r (by decide)

theorem decodeRorI_packR3 (op : Nat) (rA rB rC : RegNo) (uf : Bool) (r : MkR3) (i : MkRI) :
    decodeRorI (packR3 op 0 rA rB rC uf) r i = .ok (r rA rB rC uf) := by
  have form := packR3_form op 0 rA rB rC uf
  rw [decodeRorI, if_pos (by omega), decodeR3_packR3 _ _ _ _ _ _ _ (by decide)]

theorem decodeRorI_packRI (op : Nat) (rA rB : RegNo) (imm : BitVec 7) (uf : Bool) (r : MkR3) (i : MkRI) :
    decodeRorI (packRI op 1 rA rB imm uf) r i = .ok (i rA rB imm uf) := by
  have form := packRI_form op 1 rA rB imm uf
  rw [decodeRorI, if_neg (by omega), decodeRI_packRI _ _ _ _ _ _ _ (by decide)]

theorem decodeSigned_packR3 (op : Nat) (rA rB rC : RegNo) (uf : Bool) (r : MkR3) (i : MkRI) (rs : MkR3) (is : MkRI) :
    decodeSigned (packR3 op 0 rA rB rC uf) r i rs is = .ok (r rA rB rC uf) := by
  simp only [decodeSigned, packR3_form]
  exact decodeR3_packR3 op 0 rA rB rC uf r (by decide)

theorem decodeSigned_packRI (op : Nat) (rA rB : RegNo) (imm : BitVec 7) (uf : Bool) (r : MkR3) (i : MkRI) (rs : MkR3)
    (is : MkRI) : decodeSigned (packRI op 1 rA rB imm uf) r i rs is = .ok (i rA rB imm uf) := by
  simp only [decodeSigned, packRI_form]
  exact decodeRI_packRI op 1 rA rB imm uf i (by decide)

theorem decodeSigned_packR3_signed (op : Nat) (rA rB rC : RegNo) (uf : Bool) (r : MkR3) (i : MkRI) (rs : MkR3)
    (is : MkRI) : decodeSigned (packR3 op 2 rA rB rC uf) r i rs is = .ok (rs rA rB rC uf) := by
  simp only [decodeSigned, packR3_form]
  exact decodeR3_packR3 op 2 rA rB rC uf rs (by decide)

theorem decodeSigned_packRI_signed (op : Nat) (rA rB : RegNo) (imm : BitVec 7) (uf : Bool) (r : MkR3) (i : MkRI)
    (rs : MkR3) (is : MkRI) : decodeSigned (packRI op 3 rA rB imm uf) r i rs is = .ok (is rA rB imm uf) := by
  simp only [decodeSigned, packRI_form]
  exact decodeRI_packRI op 3 rA rB imm uf is (by decide)

/-- Format R2X reads back its fields. -/
theorem decodeR2X_packR2X (op : Nat) (rA rB : RegNo) (mk : RegNo → RegNo → Instr) :
    decodeR2X (packR2X op rA rB) mk = .ok (mk rA rB) := by
  have hc : packR2X op rA rB % 32 = 0 := by unfold packR2X; omega
  have hA : regAt (packR2X op rA rB) 10 = rA := Fin.ext (by simp only [regAt, packR2X]; omega)
  have hB : regAt (packR2X op rA rB) 5 = rB := Fin.ext (by simp only [regAt, packR2X]; omega)
  rw [decodeR2X, decodeIf, if_pos hc, hA, hB]

/-- Format R2C reads back its fields. -/
theorem decodeR2C_packR2C (op : Nat) (rA rB : RegNo) (mk : RegNo → RegNo → Instr) :
    decodeR2C (packR2C op rA rB) mk = .ok (mk rA rB) := by
  have hc : packR2C op rA rB % 256 = 0 := by unfold packR2C; omega
  have hA : regAt (packR2C op rA rB) 13 = rA := Fin.ext (by simp only [regAt, packR2C]; omega)
  have hB : regAt (packR2C op rA rB) 8 = rB := Fin.ext (by simp only [regAt, packR2C]; omega)
  rw [decodeR2C, decodeIf, if_pos hc, hA, hB]

/-- The fields of format R2U. -/
theorem packR2U_fields (op fn : Nat) (rA rB : RegNo) (uf : Bool) (h : fn < 128) :
    packR2U op fn rA rB uf / 2 % 128 = fn ∧ regAt (packR2U op fn rA rB uf) 13 = rA ∧
      regAt (packR2U op fn rA rB uf) 8 = rB ∧ ufOf (packR2U op fn rA rB uf) = uf := by
  have huf := uf.toNat_lt
  refine ⟨by unfold packR2U; omega, Fin.ext ?_, Fin.ext ?_, ?_⟩
  · simp only [regAt, packR2U]; omega
  · simp only [regAt, packR2U]; omega
  · cases uf <;> simp [ufOf, packR2U] <;> omega

theorem decodeR2U_negate (op : Nat) (rA rB : RegNo) (uf : Bool) (ng nt bf : RegNo → RegNo → Bool → Instr)
    (rnd : RegNo → Bool → Instr) : decodeR2U (packR2U op 0 rA rB uf) ng nt bf rnd = .ok (ng rA rB uf) := by
  obtain ⟨hf, hA, hB, hu⟩ := packR2U_fields op 0 rA rB uf (by decide)
  simp only [decodeR2U, hf, hA, hB, hu]

theorem decodeR2U_not (op : Nat) (rA rB : RegNo) (uf : Bool) (ng nt bf : RegNo → RegNo → Bool → Instr)
    (rnd : RegNo → Bool → Instr) : decodeR2U (packR2U op 32 rA rB uf) ng nt bf rnd = .ok (nt rA rB uf) := by
  obtain ⟨hf, hA, hB, hu⟩ := packR2U_fields op 32 rA rB uf (by decide)
  simp only [decodeR2U, hf, hA, hB, hu]

theorem decodeR2U_bitFlip (op : Nat) (rA rB : RegNo) (uf : Bool) (ng nt bf : RegNo → RegNo → Bool → Instr)
    (rnd : RegNo → Bool → Instr) : decodeR2U (packR2U op 64 rA rB uf) ng nt bf rnd = .ok (bf rA rB uf) := by
  obtain ⟨hf, hA, hB, hu⟩ := packR2U_fields op 64 rA rB uf (by decide)
  simp only [decodeR2U, hf, hA, hB, hu]

theorem decodeR2U_random (op : Nat) (rA : RegNo) (uf : Bool) (ng nt bf : RegNo → RegNo → Bool → Instr)
    (rnd : RegNo → Bool → Instr) : decodeR2U (packR2U op 96 rA 0 uf) ng nt bf rnd = .ok (rnd rA uf) := by
  obtain ⟨hf, hA, hB, hu⟩ := packR2U_fields op 96 rA 0 uf (by decide)
  have hz : packR2U op 96 rA 0 uf / 2 ^ 8 % 32 = 0 := congrArg Fin.val hB
  simp only [decodeR2U, hf, hA, hu, decodeIf, if_pos hz]

theorem decodeR2UF_packR2U (op : Nat) (rA rB : RegNo) (uf : Bool) (ng : RegNo → RegNo → Bool → Instr) :
    decodeR2UF (packR2U op 0 rA rB uf) ng = .ok (ng rA rB uf) := by
  obtain ⟨hf, hA, hB, hu⟩ := packR2U_fields op 0 rA rB uf (by decide)
  rw [decodeR2UF, decodeIf, if_pos hf, hA, hB, hu]

/-- Format BO reads back its fields, under a condition table that assigns the condition. -/
theorem decodeBO_packBO (t : CondTable) (op : Nat) (cond : Fin 16) (offset : BitVec 17)
    (mk : Fin 16 → BitVec 17 → Instr) (h : condAssigned t cond = true) :
    decodeBO t (packBO op cond offset) mk = .ok (mk cond offset) := by
  have hc : condAt (packBO op cond offset) 17 = cond := Fin.ext (by simp only [condAt, packBO]; omega)
  have hi : immAt 17 (packBO op cond offset) 0 = offset :=
    BitVec.eq_of_toNat_eq (by simp only [immAt, packBO, BitVec.toNat_ofNat]; omega)
  rw [decodeBO, hc, if_pos h, hi]

/-- Format BR reads back its fields, under a condition table that assigns the condition. -/
theorem decodeBR_packBR (t : CondTable) (op : Nat) (cond : Fin 16) (rA : RegNo) (mk : Fin 16 → RegNo → Instr)
    (h : condAssigned t cond = true) : decodeBR t (packBR op cond rA) mk = .ok (mk cond rA) := by
  have hk : packBR op cond rA % 8 = 0 := by unfold packBR; omega
  have hc : condAt (packBR op cond rA) 8 = cond := Fin.ext (by simp only [condAt, packBR]; omega)
  have hA : regAt (packBR op cond rA) 3 = rA := Fin.ext (by simp only [regAt, packBR]; omega)
  rw [decodeBR, if_pos hk, hc, if_pos h, hA]

/-- Format CR2 reads back its fields. -/
theorem decodeCR2_packCR2 (op : Nat) (rA rB : RegNo) (mk : RegNo → RegNo → Instr) :
    decodeCR2 (packCR2 op rA rB) mk = .ok (mk rA rB) := by
  have hA : regAt (packCR2 op rA rB) 5 = rA := Fin.ext (by simp only [regAt, packCR2]; omega)
  have hB : regAt (packCR2 op rA rB) 0 = rB := Fin.ext (by simp only [regAt, packCR2]; omega)
  rw [decodeCR2, hA, hB]

/-- Format CI reads back its fields; its opcode is odd. -/
theorem decodeCI_packCI (op : Nat) (rA : RegNo) (imm : BitVec 14) (mk : RegNo → BitVec 14 → Instr) (h : op % 2 = 1) :
    decodeCI (packCI op rA imm) mk = .ok (mk rA imm) := by
  have hc : packCI op rA imm / 2 ^ 19 % 2 = 1 := by rw [packCI_top]; exact h
  have hA : regAt (packCI op rA imm) 14 = rA := Fin.ext (by simp only [regAt, packCI]; omega)
  have hi : immAt 14 (packCI op rA imm) 0 = imm :=
    BitVec.eq_of_toNat_eq (by simp only [immAt, packCI, BitVec.toNat_ofNat]; omega)
  rw [decodeCI, decodeIf, if_pos hc, hA, hi]

/-- Format MI reads back its fields. -/
theorem decodeMI_packMI (op : Nat) (rA : RegNo) (imm : BitVec 17) (mk : RegNo → BitVec 17 → Instr) :
    decodeMI (packMI op rA imm) mk = .ok (mk rA imm) := by
  have hA : regAt (packMI op rA imm) 17 = rA := Fin.ext (by simp only [regAt, packMI]; omega)
  have hi : immAt 17 (packMI op rA imm) 0 = imm :=
    BitVec.eq_of_toNat_eq (by simp only [immAt, packMI, BitVec.toNat_ofNat]; omega)
  rw [decodeMI, hA, hi]

/-- Format LS reads back its fields, for an Adjust rB value that has a meaning. -/
theorem decodeLS_packLS (op : Nat) (rA rB : RegNo) (count : Fin 32) (mode : Fin 4) (offset : BitVec 27)
    (mk : RegNo → RegNo → Fin 32 → Fin 4 → BitVec 27 → Instr) (h : modeAssigned mode = true) :
    decodeLS (packLS op rA rB count mode offset) mk = .ok (mk rA rB count mode offset) := by
  have hk : packLS op rA rB count mode offset % 8 = 0 := by unfold packLS; omega
  have hA : regAt (packLS op rA rB count mode offset) 42 = rA := Fin.ext (by simp only [regAt, packLS]; omega)
  have hB : regAt (packLS op rA rB count mode offset) 37 = rB := Fin.ext (by simp only [regAt, packLS]; omega)
  have hn : regAt (packLS op rA rB count mode offset) 32 = count := Fin.ext (by simp only [regAt, packLS]; omega)
  have hm : modeAt (packLS op rA rB count mode offset) 30 = mode := Fin.ext (by simp only [modeAt, packLS]; omega)
  have hi : immAt 27 (packLS op rA rB count mode offset) 3 = offset :=
    BitVec.eq_of_toNat_eq (by simp only [immAt, packLS, BitVec.toNat_ofNat]; omega)
  rw [decodeLS, if_pos hk, hm, if_pos h, hA, hB, hn, hi]

/-- The word of SMP: word bit 9 is set. -/
theorem decodeMP_smp (rA rB : RegNo) (prot : Prot) :
    decodeMP (82 * 2 ^ 20 + rA.val * 2 ^ 15 + rB.val * 2 ^ 10 + 2 ^ 9 + prot.toNat * 2 ^ 7) = .ok (.smp rA rB prot) := by
  generalize hw : 82 * 2 ^ 20 + rA.val * 2 ^ 15 + rB.val * 2 ^ 10 + 2 ^ 9 + prot.toNat * 2 ^ 7 = w
  have hA : regAt w 15 = rA := Fin.ext (by simp only [regAt]; omega)
  have hB : regAt w 10 = rB := Fin.ext (by simp only [regAt]; omega)
  have hv : immAt 2 w 7 = prot := BitVec.eq_of_toNat_eq (by simp only [immAt, BitVec.toNat_ofNat]; omega)
  rw [decodeMP, if_neg (by omega), decodeIf, if_pos (by omega), hA, hB, hv]

/-- The word of RMP: word bits 9 to 0 are clear. -/
theorem decodeMP_rmp (rA rB : RegNo) :
    decodeMP (82 * 2 ^ 20 + rA.val * 2 ^ 15 + rB.val * 2 ^ 10) = .ok (.rmp rA rB) := by
  generalize hw : 82 * 2 ^ 20 + rA.val * 2 ^ 15 + rB.val * 2 ^ 10 = w
  have hA : regAt w 15 = rA := Fin.ext (by simp only [regAt]; omega)
  have hB : regAt w 10 = rB := Fin.ext (by simp only [regAt]; omega)
  rw [decodeMP, if_pos (by omega), decodeIf, if_pos (by omega), hA, hB]

/-- The word of DMT: format R3 with its constant field and its last bit clear. -/
theorem decodeDmt_packR3 (rA rB rC : RegNo) :
    decodeIf (packR3 52 0 rA rB rC false % 32 = 0)
        (.dmt (regAt (packR3 52 0 rA rB rC false) 15) (regAt (packR3 52 0 rA rB rC false) 10)
          (regAt (packR3 52 0 rA rB rC false) 5)) = .ok (.dmt rA rB rC) := by
  have hc : packR3 52 0 rA rB rC false % 32 = 0 := by simp only [packR3, Bool.toNat_false]; omega
  have hA : regAt (packR3 52 0 rA rB rC false) 15 = rA := Fin.ext (by simp only [regAt, packR3, Bool.toNat_false]; omega)
  have hB : regAt (packR3 52 0 rA rB rC false) 10 = rB := Fin.ext (by simp only [regAt, packR3, Bool.toNat_false]; omega)
  have hC : regAt (packR3 52 0 rA rB rC false) 5 = rC := Fin.ext (by simp only [regAt, packR3, Bool.toNat_false]; omega)
  rw [decodeIf, if_pos hc, hA, hB, hC]

end Sys2Proof
end

section
/-! ## The opcode map (30_encoding.md R120): which bits of a word select which decoder -/

namespace Sys2Proof

variable (t : CondTable)

/-! ### 27-bit words of formats R3 and RI -/

theorem decode27_ad {w : Nat} (h : w / 2 ^ 20 = 0) :
    decode27 t w = decodeRorI w .ad .adi := by
  unfold decode27; rw [h]; rfl

theorem decode27_adf {w : Nat} (h : w / 2 ^ 20 = 1) :
    decode27 t w = decodeR w .adf := by
  unfold decode27; rw [h]; rfl

theorem decode27_adm {w : Nat} (h : w / 2 ^ 20 = 2) :
    decode27 t w = decodeRorI w .adm .adim := by
  unfold decode27; rw [h]; rfl

theorem decode27_adfm {w : Nat} (h : w / 2 ^ 20 = 3) :
    decode27 t w = decodeR w .adfm := by
  unfold decode27; rw [h]; rfl

theorem decode27_sb {w : Nat} (h : w / 2 ^ 20 = 4) :
    decode27 t w = decodeRorI w .sb .sbi := by
  unfold decode27; rw [h]; rfl

theorem decode27_sbf {w : Nat} (h : w / 2 ^ 20 = 5) :
    decode27 t w = decodeR w .sbf := by
  unfold decode27; rw [h]; rfl

theorem decode27_sbm {w : Nat} (h : w / 2 ^ 20 = 6) :
    decode27 t w = decodeRorI w .sbm .sbim := by
  unfold decode27; rw [h]; rfl

theorem decode27_sbfm {w : Nat} (h : w / 2 ^ 20 = 7) :
    decode27 t w = decodeR w .sbfm := by
  unfold decode27; rw [h]; rfl

theorem decode27_mu {w : Nat} (h : w / 2 ^ 20 = 8) :
    decode27 t w = decodeSigned w .mu .mui .mus .muis := by
  unfold decode27; rw [h]; rfl

theorem decode27_muf {w : Nat} (h : w / 2 ^ 20 = 9) :
    decode27 t w = decodeR w .muf := by
  unfold decode27; rw [h]; rfl

theorem decode27_mum {w : Nat} (h : w / 2 ^ 20 = 10) :
    decode27 t w = decodeSigned w .mum .muim .musm .muism := by
  unfold decode27; rw [h]; rfl

theorem decode27_mufm {w : Nat} (h : w / 2 ^ 20 = 11) :
    decode27 t w = decodeR w .mufm := by
  unfold decode27; rw [h]; rfl

theorem decode27_dv {w : Nat} (h : w / 2 ^ 20 = 12) :
    decode27 t w = decodeSigned w .dv .dvi .dvs .dvis := by
  unfold decode27; rw [h]; rfl

theorem decode27_dvf {w : Nat} (h : w / 2 ^ 20 = 13) :
    decode27 t w = decodeR w .dvf := by
  unfold decode27; rw [h]; rfl

theorem decode27_dvm {w : Nat} (h : w / 2 ^ 20 = 14) :
    decode27 t w = decodeSigned w .dvm .dvim .dvsm .dvism := by
  unfold decode27; rw [h]; rfl

theorem decode27_dvfm {w : Nat} (h : w / 2 ^ 20 = 15) :
    decode27 t w = decodeR w .dvfm := by
  unfold decode27; rw [h]; rfl

theorem decode27_md {w : Nat} (h : w / 2 ^ 20 = 16) :
    decode27 t w = decodeSigned w .md .mdi .mds .mdis := by
  unfold decode27; rw [h]; rfl

theorem decode27_mdf {w : Nat} (h : w / 2 ^ 20 = 17) :
    decode27 t w = decodeR w .mdf := by
  unfold decode27; rw [h]; rfl

theorem decode27_mdm {w : Nat} (h : w / 2 ^ 20 = 18) :
    decode27 t w = decodeSigned w .mdm .mdim .mdsm .mdism := by
  unfold decode27; rw [h]; rfl

theorem decode27_mdfm {w : Nat} (h : w / 2 ^ 20 = 19) :
    decode27 t w = decodeR w .mdfm := by
  unfold decode27; rw [h]; rfl

theorem decode27_an {w : Nat} (h : w / 2 ^ 20 = 20) :
    decode27 t w = decodeRorI w .an .ani := by
  unfold decode27; rw [h]; rfl

theorem decode27_anm {w : Nat} (h : w / 2 ^ 20 = 22) :
    decode27 t w = decodeR w .anm := by
  unfold decode27; rw [h]; rfl

theorem decode27_or {w : Nat} (h : w / 2 ^ 20 = 24) :
    decode27 t w = decodeRorI w .or .ori := by
  unfold decode27; rw [h]; rfl

theorem decode27_orm {w : Nat} (h : w / 2 ^ 20 = 26) :
    decode27 t w = decodeR w .orm := by
  unfold decode27; rw [h]; rfl

theorem decode27_xr {w : Nat} (h : w / 2 ^ 20 = 28) :
    decode27 t w = decodeRorI w .xr .xri := by
  unfold decode27; rw [h]; rfl

theorem decode27_xrm {w : Nat} (h : w / 2 ^ 20 = 30) :
    decode27 t w = decodeR w .xrm := by
  unfold decode27; rw [h]; rfl

theorem decode27_adc {w : Nat} (h : w / 2 ^ 20 = 32) :
    decode27 t w = decodeRorI w .adc .adci := by
  unfold decode27; rw [h]; rfl

theorem decode27_adcm {w : Nat} (h : w / 2 ^ 20 = 34) :
    decode27 t w = decodeRorI w .adcm .adcim := by
  unfold decode27; rw [h]; rfl

theorem decode27_sbc {w : Nat} (h : w / 2 ^ 20 = 36) :
    decode27 t w = decodeRorI w .sbc .sbci := by
  unfold decode27; rw [h]; rfl

theorem decode27_sbcm {w : Nat} (h : w / 2 ^ 20 = 38) :
    decode27 t w = decodeRorI w .sbcm .sbcim := by
  unfold decode27; rw [h]; rfl

theorem decode27_sl {w : Nat} (h : w / 2 ^ 20 = 40) :
    decode27 t w = decodeR w .sl := by
  unfold decode27; rw [h]; rfl

theorem decode27_sr {w : Nat} (h : w / 2 ^ 20 = 41) :
    decode27 t w = decodeR w .sr := by
  unfold decode27; rw [h]; rfl

theorem decode27_slm {w : Nat} (h : w / 2 ^ 20 = 42) :
    decode27 t w = decodeR w .slm := by
  unfold decode27; rw [h]; rfl

theorem decode27_srm {w : Nat} (h : w / 2 ^ 20 = 43) :
    decode27 t w = decodeR w .srm := by
  unfold decode27; rw [h]; rfl

theorem decode27_sa {w : Nat} (h : w / 2 ^ 20 = 45) :
    decode27 t w = decodeR w .sa := by
  unfold decode27; rw [h]; rfl

theorem decode27_sam {w : Nat} (h : w / 2 ^ 20 = 47) :
    decode27 t w = decodeR w .sam := by
  unfold decode27; rw [h]; rfl

theorem decode27_rl {w : Nat} (h : w / 2 ^ 20 = 48) :
    decode27 t w = decodeR w .rl := by
  unfold decode27; rw [h]; rfl

theorem decode27_rr {w : Nat} (h : w / 2 ^ 20 = 49) :
    decode27 t w = decodeR w .rr := by
  unfold decode27; rw [h]; rfl

theorem decode27_rlm {w : Nat} (h : w / 2 ^ 20 = 50) :
    decode27 t w = decodeR w .rlm := by
  unfold decode27; rw [h]; rfl

theorem decode27_rrm {w : Nat} (h : w / 2 ^ 20 = 51) :
    decode27 t w = decodeR w .rrm := by
  unfold decode27; rw [h]; rfl

theorem decode27_sli {w : Nat} (h : w / 2 ^ 20 = 56) :
    decode27 t w = decodeRI 0 w .sli := by
  unfold decode27; rw [h]; rfl

theorem decode27_sri {w : Nat} (h : w / 2 ^ 20 = 57) :
    decode27 t w = decodeRI 0 w .sri := by
  unfold decode27; rw [h]; rfl

theorem decode27_slim {w : Nat} (h : w / 2 ^ 20 = 58) :
    decode27 t w = decodeRI 0 w .slim := by
  unfold decode27; rw [h]; rfl

theorem decode27_srim {w : Nat} (h : w / 2 ^ 20 = 59) :
    decode27 t w = decodeRI 0 w .srim := by
  unfold decode27; rw [h]; rfl

theorem decode27_sai {w : Nat} (h : w / 2 ^ 20 = 61) :
    decode27 t w = decodeRI 0 w .sai := by
  unfold decode27; rw [h]; rfl

theorem decode27_saim {w : Nat} (h : w / 2 ^ 20 = 63) :
    decode27 t w = decodeRI 0 w .saim := by
  unfold decode27; rw [h]; rfl

theorem decode27_rli {w : Nat} (h : w / 2 ^ 20 = 64) :
    decode27 t w = decodeRI 0 w .rli := by
  unfold decode27; rw [h]; rfl

theorem decode27_rri {w : Nat} (h : w / 2 ^ 20 = 65) :
    decode27 t w = decodeRI 0 w .rri := by
  unfold decode27; rw [h]; rfl

theorem decode27_rlim {w : Nat} (h : w / 2 ^ 20 = 66) :
    decode27 t w = decodeRI 0 w .rlim := by
  unfold decode27; rw [h]; rfl

theorem decode27_rrim {w : Nat} (h : w / 2 ^ 20 = 67) :
    decode27 t w = decodeRI 0 w .rrim := by
  unfold decode27; rw [h]; rfl

theorem decode27_dmt {w : Nat} (h : w / 2 ^ 20 = 52) :
    decode27 t w = decodeIf (w % 32 = 0) (.dmt (regAt w 15) (regAt w 10) (regAt w 5)) := by
  unfold decode27; rw [h]; rfl

/-! ### 27-bit words whose opcode goes on after figure bit 6 -/

theorem decode27_ses {w : Nat} (h : w / 2 ^ 15 = 2567) : decode27 t w = decodeR2X w .ses := by
  unfold decode27
  rw [show w / 2 ^ 20 = 80 by omega, show w / 2 ^ 15 % 32 = 7 by omega]
  rfl

theorem decode27_sew {w : Nat} (h : w / 2 ^ 15 = 2568) : decode27 t w = decodeR2X w .sew := by
  unfold decode27
  rw [show w / 2 ^ 20 = 80 by omega, show w / 2 ^ 15 % 32 = 8 by omega]
  rfl

theorem decode27_zes {w : Nat} (h : w / 2 ^ 15 = 2569) : decode27 t w = decodeR2X w .zes := by
  unfold decode27
  rw [show w / 2 ^ 20 = 80 by omega, show w / 2 ^ 15 % 32 = 9 by omega]
  rfl

theorem decode27_zew {w : Nat} (h : w / 2 ^ 15 = 2570) : decode27 t w = decodeR2X w .zew := by
  unfold decode27
  rw [show w / 2 ^ 20 = 80 by omega, show w / 2 ^ 15 % 32 = 10 by omega]
  rfl

theorem decode27_itf {w : Nat} (h : w / 2 ^ 18 = 324) : decode27 t w = decodeR2C w .itf := by
  unfold decode27
  rw [show w / 2 ^ 20 = 81 by omega, show w / 2 ^ 18 % 4 = 0 by omega]
  rfl

theorem decode27_fti {w : Nat} (h : w / 2 ^ 18 = 325) : decode27 t w = decodeR2C w .fti := by
  unfold decode27
  rw [show w / 2 ^ 20 = 81 by omega, show w / 2 ^ 18 % 4 = 1 by omega]
  rfl

theorem decode27_itfm {w : Nat} (h : w / 2 ^ 18 = 326) : decode27 t w = decodeR2C w .itfm := by
  unfold decode27
  rw [show w / 2 ^ 20 = 81 by omega, show w / 2 ^ 18 % 4 = 2 by omega]
  rfl

theorem decode27_ftim {w : Nat} (h : w / 2 ^ 18 = 327) : decode27 t w = decodeR2C w .ftim := by
  unfold decode27
  rw [show w / 2 ^ 20 = 81 by omega, show w / 2 ^ 18 % 4 = 3 by omega]
  rfl

theorem decode27_negate {w : Nat} (h : w / 2 ^ 18 = 332) : decode27 t w = decodeR2U w .ng .nt .bf .rnd := by
  unfold decode27
  rw [show w / 2 ^ 20 = 83 by omega, show w / 2 ^ 18 % 4 = 0 by omega]
  rfl

theorem decode27_negateFloat {w : Nat} (h : w / 2 ^ 18 = 333) : decode27 t w = decodeR2UF w .ngf := by
  unfold decode27
  rw [show w / 2 ^ 20 = 83 by omega, show w / 2 ^ 18 % 4 = 1 by omega]
  rfl

theorem decode27_negatePair {w : Nat} (h : w / 2 ^ 18 = 334) : decode27 t w = decodeR2U w .ngm .ntm .bfm .rndm := by
  unfold decode27
  rw [show w / 2 ^ 20 = 83 by omega, show w / 2 ^ 18 % 4 = 2 by omega]
  rfl

theorem decode27_negateFloatPair {w : Nat} (h : w / 2 ^ 18 = 335) : decode27 t w = decodeR2UF w .ngfm := by
  unfold decode27
  rw [show w / 2 ^ 20 = 83 by omega, show w / 2 ^ 18 % 4 = 3 by omega]
  rfl

theorem decode27_mh {w : Nat} (h : w / 2 ^ 22 = 17) : decode27 t w = decodeMI w .mh := by
  have opcode : w / 2 ^ 20 = 68 ∨ w / 2 ^ 20 = 69 ∨ w / 2 ^ 20 = 70 ∨ w / 2 ^ 20 = 71 := by omega
  rcases opcode with e | e | e | e <;> (unfold decode27; rw [e]; rfl)

theorem decode27_ml {w : Nat} (h : w / 2 ^ 22 = 18) : decode27 t w = decodeMI w .ml := by
  have opcode : w / 2 ^ 20 = 72 ∨ w / 2 ^ 20 = 73 ∨ w / 2 ^ 20 = 74 ∨ w / 2 ^ 20 = 75 := by omega
  rcases opcode with e | e | e | e <;> (unfold decode27; rw [e]; rfl)

theorem decode27_ms {w : Nat} (h : w / 2 ^ 22 = 19) : decode27 t w = decodeMI w .ms := by
  have opcode : w / 2 ^ 20 = 76 ∨ w / 2 ^ 20 = 77 ∨ w / 2 ^ 20 = 78 ∨ w / 2 ^ 20 = 79 := by omega
  rcases opcode with e | e | e | e <;> (unfold decode27; rw [e]; rfl)

theorem decode27_b {w : Nat} (h : w / 2 ^ 21 = 48) : decode27 t w = decodeBO t w .b := by
  have opcode : w / 2 ^ 20 = 96 ∨ w / 2 ^ 20 = 97 := by omega
  rcases opcode with e | e <;> (unfold decode27; rw [e]; rfl)

theorem decode27_c {w : Nat} (h : w / 2 ^ 21 = 53) : decode27 t w = decodeBO t w .c := by
  have opcode : w / 2 ^ 20 = 106 ∨ w / 2 ^ 20 = 107 := by omega
  rcases opcode with e | e <;> (unfold decode27; rw [e]; rfl)

theorem decode27_cmi {w : Nat} (h : w / 2 ^ 19 = 185) : decode27 t w = decodeCI w .cmi := by
  unfold decode27
  rw [show w / 2 ^ 20 = 92 by omega]
  rfl

theorem decode27_cmim {w : Nat} (h : w / 2 ^ 19 = 189) : decode27 t w = decodeCI w .cmim := by
  unfold decode27
  rw [show w / 2 ^ 20 = 94 by omega]
  rfl

/-- The opcode of SMP and RMP. -/
theorem decode27_protection {w : Nat} (h : w / 2 ^ 20 = 82) : decode27 t w = decodeMP w := by
  unfold decode27; rw [h]; rfl

/-! ### 18-bit words -/

theorem decode18_br {w : Nat} (h : w / 2 ^ 12 = 50) : decode18 t w = decodeBR t w .br := by
  have opcode : w / 2 ^ 10 = 200 ∨ w / 2 ^ 10 = 201 ∨ w / 2 ^ 10 = 202 ∨ w / 2 ^ 10 = 203 := by omega
  rcases opcode with e | e | e | e <;> (unfold decode18; rw [e]; rfl)

theorem decode18_cr {w : Nat} (h : w / 2 ^ 12 = 55) : decode18 t w = decodeBR t w .cr := by
  have opcode : w / 2 ^ 10 = 220 ∨ w / 2 ^ 10 = 221 ∨ w / 2 ^ 10 = 222 ∨ w / 2 ^ 10 = 223 := by omega
  rcases opcode with e | e | e | e <;> (unfold decode18; rw [e]; rfl)

theorem decode18_cm {w : Nat} (h : w / 2 ^ 10 = 184) : decode18 t w = decodeCR2 w .cm := by
  unfold decode18; rw [h]; rfl

theorem decode18_cmf {w : Nat} (h : w / 2 ^ 10 = 186) : decode18 t w = decodeCR2 w .cmf := by
  unfold decode18; rw [h]; rfl

theorem decode18_cmm {w : Nat} (h : w / 2 ^ 10 = 188) : decode18 t w = decodeCR2 w .cmm := by
  unfold decode18; rw [h]; rfl

theorem decode18_cmfm {w : Nat} (h : w / 2 ^ 10 = 190) : decode18 t w = decodeCR2 w .cmfm := by
  unfold decode18; rw [h]; rfl

/-! ### 36-bit and 54-bit words -/

/-- The word of CAR decodes to it, with its offset (30_encoding.md R117, R120). -/
theorem decode36_car (v : BitVec 27) : decode36 (packA36 456 v) = .ok (.car v) := by
  simp only [decode36, packA36_top, packA36_imm]
  rfl

/-- The word of CAA decodes to it, with its location (30_encoding.md R117, R120). -/
theorem decode36_caa (v : BitVec 27) : decode36 (packA36 460 v) = .ok (.caa v) := by
  simp only [decode36, packA36_top, packA36_imm]
  rfl

theorem decode54_lds {w : Nat} (h : w / 2 ^ 47 = 84) : decode54 w = decodeLS w .lds := by
  unfold decode54; rw [h]; rfl

theorem decode54_ldw {w : Nat} (h : w / 2 ^ 47 = 85) : decode54 w = decodeLS w .ldw := by
  unfold decode54; rw [h]; rfl

theorem decode54_ldt {w : Nat} (h : w / 2 ^ 47 = 86) : decode54 w = decodeLS w .ldt := by
  unfold decode54; rw [h]; rfl

theorem decode54_sts {w : Nat} (h : w / 2 ^ 47 = 88) : decode54 w = decodeLS w .sts := by
  unfold decode54; rw [h]; rfl

theorem decode54_stw {w : Nat} (h : w / 2 ^ 47 = 89) : decode54 w = decodeLS w .stw := by
  unfold decode54; rw [h]; rfl

theorem decode54_stt {w : Nat} (h : w / 2 ^ 47 = 90) : decode54 w = decodeLS w .stt := by
  unfold decode54; rw [h]; rfl

/-! ### The flag transfers -/

/-- The opcode of SF selects SF, whatever its last bit. -/
theorem decodeWord_sf {w : Nat} (h : w / 2 ^ 6 = 2571) : decodeWord t 2 w = decodeR1 w .sf := by
  rw [decodeWord, decode18_system t (by omega)]
  simp only [decodeSystem18, show w / 2 ^ 6 % 32 = 11 by omega]

/-- The opcode of RF selects RF, whatever its last bit. -/
theorem decodeWord_rf {w : Nat} (h : w / 2 ^ 6 = 2572) : decodeWord t 2 w = decodeR1 w .rf := by
  rw [decodeWord, decode18_system t (by omega)]
  simp only [decodeSystem18, show w / 2 ^ 6 % 32 = 12 by omega]

/-! ### Every instruction -/

/-- An instruction of two bytes decodes as its 18-bit word does. -/
theorem decodeWord_eq_of_18 {i : Instr} {w : Nat} (h : decode18 t w = .ok i) (hl : i.len = 2) (hw : encodeWord i = w) :
    decodeWord t i.len (encodeWord i) = .ok i := by rw [hl, hw]; exact h

/-- An instruction of three bytes decodes as its 27-bit word does. -/
theorem decodeWord_eq_of_27 {i : Instr} {w : Nat} (h : decode27 t w = .ok i) (hl : i.len = 3) (hw : encodeWord i = w) :
    decodeWord t i.len (encodeWord i) = .ok i := by rw [hl, hw]; exact h

/-- An instruction of four bytes decodes as its 36-bit word does. -/
theorem decodeWord_eq_of_36 {i : Instr} {w : Nat} (h : decode36 w = .ok i) (hl : i.len = 4) (hw : encodeWord i = w) :
    decodeWord t i.len (encodeWord i) = .ok i := by rw [hl, hw]; exact h

/-- An instruction of six bytes decodes as its 54-bit word does. -/
theorem decodeWord_eq_of_54 {i : Instr} {w : Nat} (h : decode54 w = .ok i) (hl : i.len = 6) (hw : encodeWord i = w) :
    decodeWord t i.len (encodeWord i) = .ok i := by rw [hl, hw]; exact h

/-- The word of a well-formed instruction decodes to it. -/
theorem decodeWord_encodeWord (i : Instr) (h : WellFormed t i = true) :
    decodeWord t i.len (encodeWord i) = .ok i := by
  cases i with
  | ad =>
    exact decodeWord_eq_of_27 t ((decode27_ad t (packR3_top (h := by decide) ..)).trans (decodeRorI_packR3 ..)) rfl rfl
  | adi =>
    exact decodeWord_eq_of_27 t ((decode27_ad t (packRI_top (h := by decide) ..)).trans (decodeRorI_packRI ..)) rfl rfl
  | adm =>
    exact decodeWord_eq_of_27 t ((decode27_adm t (packR3_top (h := by decide) ..)).trans (decodeRorI_packR3 ..)) rfl rfl
  | adim =>
    exact decodeWord_eq_of_27 t ((decode27_adm t (packRI_top (h := by decide) ..)).trans (decodeRorI_packRI ..)) rfl rfl
  | adc =>
    exact decodeWord_eq_of_27 t ((decode27_adc t (packR3_top (h := by decide) ..)).trans (decodeRorI_packR3 ..)) rfl rfl
  | adci =>
    exact decodeWord_eq_of_27 t ((decode27_adc t (packRI_top (h := by decide) ..)).trans (decodeRorI_packRI ..)) rfl rfl
  | adcm =>
    exact decodeWord_eq_of_27 t ((decode27_adcm t (packR3_top (h := by decide) ..)).trans (decodeRorI_packR3 ..)) rfl rfl
  | adcim =>
    exact decodeWord_eq_of_27 t ((decode27_adcm t (packRI_top (h := by decide) ..)).trans (decodeRorI_packRI ..)) rfl rfl
  | sb =>
    exact decodeWord_eq_of_27 t ((decode27_sb t (packR3_top (h := by decide) ..)).trans (decodeRorI_packR3 ..)) rfl rfl
  | sbi =>
    exact decodeWord_eq_of_27 t ((decode27_sb t (packRI_top (h := by decide) ..)).trans (decodeRorI_packRI ..)) rfl rfl
  | sbm =>
    exact decodeWord_eq_of_27 t ((decode27_sbm t (packR3_top (h := by decide) ..)).trans (decodeRorI_packR3 ..)) rfl rfl
  | sbim =>
    exact decodeWord_eq_of_27 t ((decode27_sbm t (packRI_top (h := by decide) ..)).trans (decodeRorI_packRI ..)) rfl rfl
  | sbc =>
    exact decodeWord_eq_of_27 t ((decode27_sbc t (packR3_top (h := by decide) ..)).trans (decodeRorI_packR3 ..)) rfl rfl
  | sbci =>
    exact decodeWord_eq_of_27 t ((decode27_sbc t (packRI_top (h := by decide) ..)).trans (decodeRorI_packRI ..)) rfl rfl
  | sbcm =>
    exact decodeWord_eq_of_27 t ((decode27_sbcm t (packR3_top (h := by decide) ..)).trans (decodeRorI_packR3 ..)) rfl rfl
  | sbcim =>
    exact decodeWord_eq_of_27 t ((decode27_sbcm t (packRI_top (h := by decide) ..)).trans (decodeRorI_packRI ..)) rfl rfl
  | mu =>
    exact decodeWord_eq_of_27 t ((decode27_mu t (packR3_top (h := by decide) ..)).trans (decodeSigned_packR3 ..)) rfl rfl
  | mui =>
    exact decodeWord_eq_of_27 t ((decode27_mu t (packRI_top (h := by decide) ..)).trans (decodeSigned_packRI ..)) rfl rfl
  | mum =>
    exact decodeWord_eq_of_27 t ((decode27_mum t (packR3_top (h := by decide) ..)).trans (decodeSigned_packR3 ..)) rfl rfl
  | muim =>
    exact decodeWord_eq_of_27 t ((decode27_mum t (packRI_top (h := by decide) ..)).trans (decodeSigned_packRI ..)) rfl rfl
  | mus =>
    exact decodeWord_eq_of_27 t ((decode27_mu t (packR3_top (h := by decide) ..)).trans (decodeSigned_packR3_signed ..)) rfl rfl
  | muis =>
    exact decodeWord_eq_of_27 t ((decode27_mu t (packRI_top (h := by decide) ..)).trans (decodeSigned_packRI_signed ..)) rfl rfl
  | musm =>
    exact decodeWord_eq_of_27 t ((decode27_mum t (packR3_top (h := by decide) ..)).trans (decodeSigned_packR3_signed ..)) rfl rfl
  | muism =>
    exact decodeWord_eq_of_27 t ((decode27_mum t (packRI_top (h := by decide) ..)).trans (decodeSigned_packRI_signed ..)) rfl rfl
  | dv =>
    exact decodeWord_eq_of_27 t ((decode27_dv t (packR3_top (h := by decide) ..)).trans (decodeSigned_packR3 ..)) rfl rfl
  | dvi =>
    exact decodeWord_eq_of_27 t ((decode27_dv t (packRI_top (h := by decide) ..)).trans (decodeSigned_packRI ..)) rfl rfl
  | dvm =>
    exact decodeWord_eq_of_27 t ((decode27_dvm t (packR3_top (h := by decide) ..)).trans (decodeSigned_packR3 ..)) rfl rfl
  | dvim =>
    exact decodeWord_eq_of_27 t ((decode27_dvm t (packRI_top (h := by decide) ..)).trans (decodeSigned_packRI ..)) rfl rfl
  | dvs =>
    exact decodeWord_eq_of_27 t ((decode27_dv t (packR3_top (h := by decide) ..)).trans (decodeSigned_packR3_signed ..)) rfl rfl
  | dvis =>
    exact decodeWord_eq_of_27 t ((decode27_dv t (packRI_top (h := by decide) ..)).trans (decodeSigned_packRI_signed ..)) rfl rfl
  | dvsm =>
    exact decodeWord_eq_of_27 t ((decode27_dvm t (packR3_top (h := by decide) ..)).trans (decodeSigned_packR3_signed ..)) rfl rfl
  | dvism =>
    exact decodeWord_eq_of_27 t ((decode27_dvm t (packRI_top (h := by decide) ..)).trans (decodeSigned_packRI_signed ..)) rfl rfl
  | md =>
    exact decodeWord_eq_of_27 t ((decode27_md t (packR3_top (h := by decide) ..)).trans (decodeSigned_packR3 ..)) rfl rfl
  | mdi =>
    exact decodeWord_eq_of_27 t ((decode27_md t (packRI_top (h := by decide) ..)).trans (decodeSigned_packRI ..)) rfl rfl
  | mdm =>
    exact decodeWord_eq_of_27 t ((decode27_mdm t (packR3_top (h := by decide) ..)).trans (decodeSigned_packR3 ..)) rfl rfl
  | mdim =>
    exact decodeWord_eq_of_27 t ((decode27_mdm t (packRI_top (h := by decide) ..)).trans (decodeSigned_packRI ..)) rfl rfl
  | mds =>
    exact decodeWord_eq_of_27 t ((decode27_md t (packR3_top (h := by decide) ..)).trans (decodeSigned_packR3_signed ..)) rfl rfl
  | mdis =>
    exact decodeWord_eq_of_27 t ((decode27_md t (packRI_top (h := by decide) ..)).trans (decodeSigned_packRI_signed ..)) rfl rfl
  | mdsm =>
    exact decodeWord_eq_of_27 t ((decode27_mdm t (packR3_top (h := by decide) ..)).trans (decodeSigned_packR3_signed ..)) rfl rfl
  | mdism =>
    exact decodeWord_eq_of_27 t ((decode27_mdm t (packRI_top (h := by decide) ..)).trans (decodeSigned_packRI_signed ..)) rfl rfl
  | an =>
    exact decodeWord_eq_of_27 t ((decode27_an t (packR3_top (h := by decide) ..)).trans (decodeRorI_packR3 ..)) rfl rfl
  | ani =>
    exact decodeWord_eq_of_27 t ((decode27_an t (packRI_top (h := by decide) ..)).trans (decodeRorI_packRI ..)) rfl rfl
  | anm =>
    exact decodeWord_eq_of_27 t ((decode27_anm t (packR3_top (h := by decide) ..)).trans (decodeR_packR3 ..)) rfl rfl
  | or =>
    exact decodeWord_eq_of_27 t ((decode27_or t (packR3_top (h := by decide) ..)).trans (decodeRorI_packR3 ..)) rfl rfl
  | ori =>
    exact decodeWord_eq_of_27 t ((decode27_or t (packRI_top (h := by decide) ..)).trans (decodeRorI_packRI ..)) rfl rfl
  | orm =>
    exact decodeWord_eq_of_27 t ((decode27_orm t (packR3_top (h := by decide) ..)).trans (decodeR_packR3 ..)) rfl rfl
  | xr =>
    exact decodeWord_eq_of_27 t ((decode27_xr t (packR3_top (h := by decide) ..)).trans (decodeRorI_packR3 ..)) rfl rfl
  | xri =>
    exact decodeWord_eq_of_27 t ((decode27_xr t (packRI_top (h := by decide) ..)).trans (decodeRorI_packRI ..)) rfl rfl
  | xrm =>
    exact decodeWord_eq_of_27 t ((decode27_xrm t (packR3_top (h := by decide) ..)).trans (decodeR_packR3 ..)) rfl rfl
  | bf =>
    exact decodeWord_eq_of_27 t ((decode27_negate t (packR2U_top (h := by decide) ..)).trans (decodeR2U_bitFlip ..)) rfl rfl
  | bfm =>
    exact decodeWord_eq_of_27 t ((decode27_negatePair t (packR2U_top (h := by decide) ..)).trans (decodeR2U_bitFlip ..)) rfl rfl
  | ng =>
    exact decodeWord_eq_of_27 t ((decode27_negate t (packR2U_top (h := by decide) ..)).trans (decodeR2U_negate ..)) rfl rfl
  | ngm =>
    exact decodeWord_eq_of_27 t ((decode27_negatePair t (packR2U_top (h := by decide) ..)).trans (decodeR2U_negate ..)) rfl rfl
  | nt =>
    exact decodeWord_eq_of_27 t ((decode27_negate t (packR2U_top (h := by decide) ..)).trans (decodeR2U_not ..)) rfl rfl
  | ntm =>
    exact decodeWord_eq_of_27 t ((decode27_negatePair t (packR2U_top (h := by decide) ..)).trans (decodeR2U_not ..)) rfl rfl
  | sl =>
    exact decodeWord_eq_of_27 t ((decode27_sl t (packR3_top (h := by decide) ..)).trans (decodeR_packR3 ..)) rfl rfl
  | sli =>
    exact decodeWord_eq_of_27 t ((decode27_sli t (packRI_top (h := by decide) ..)).trans
      (decodeRI_packRI _ _ _ _ _ _ _ (by decide))) rfl rfl
  | slm =>
    exact decodeWord_eq_of_27 t ((decode27_slm t (packR3_top (h := by decide) ..)).trans (decodeR_packR3 ..)) rfl rfl
  | slim =>
    exact decodeWord_eq_of_27 t ((decode27_slim t (packRI_top (h := by decide) ..)).trans
      (decodeRI_packRI _ _ _ _ _ _ _ (by decide))) rfl rfl
  | sr =>
    exact decodeWord_eq_of_27 t ((decode27_sr t (packR3_top (h := by decide) ..)).trans (decodeR_packR3 ..)) rfl rfl
  | sri =>
    exact decodeWord_eq_of_27 t ((decode27_sri t (packRI_top (h := by decide) ..)).trans
      (decodeRI_packRI _ _ _ _ _ _ _ (by decide))) rfl rfl
  | srm =>
    exact decodeWord_eq_of_27 t ((decode27_srm t (packR3_top (h := by decide) ..)).trans (decodeR_packR3 ..)) rfl rfl
  | srim =>
    exact decodeWord_eq_of_27 t ((decode27_srim t (packRI_top (h := by decide) ..)).trans
      (decodeRI_packRI _ _ _ _ _ _ _ (by decide))) rfl rfl
  | sa =>
    exact decodeWord_eq_of_27 t ((decode27_sa t (packR3_top (h := by decide) ..)).trans (decodeR_packR3 ..)) rfl rfl
  | sai =>
    exact decodeWord_eq_of_27 t ((decode27_sai t (packRI_top (h := by decide) ..)).trans
      (decodeRI_packRI _ _ _ _ _ _ _ (by decide))) rfl rfl
  | sam =>
    exact decodeWord_eq_of_27 t ((decode27_sam t (packR3_top (h := by decide) ..)).trans (decodeR_packR3 ..)) rfl rfl
  | saim =>
    exact decodeWord_eq_of_27 t ((decode27_saim t (packRI_top (h := by decide) ..)).trans
      (decodeRI_packRI _ _ _ _ _ _ _ (by decide))) rfl rfl
  | rl =>
    exact decodeWord_eq_of_27 t ((decode27_rl t (packR3_top (h := by decide) ..)).trans (decodeR_packR3 ..)) rfl rfl
  | rli =>
    exact decodeWord_eq_of_27 t ((decode27_rli t (packRI_top (h := by decide) ..)).trans
      (decodeRI_packRI _ _ _ _ _ _ _ (by decide))) rfl rfl
  | rlm =>
    exact decodeWord_eq_of_27 t ((decode27_rlm t (packR3_top (h := by decide) ..)).trans (decodeR_packR3 ..)) rfl rfl
  | rlim =>
    exact decodeWord_eq_of_27 t ((decode27_rlim t (packRI_top (h := by decide) ..)).trans
      (decodeRI_packRI _ _ _ _ _ _ _ (by decide))) rfl rfl
  | rr =>
    exact decodeWord_eq_of_27 t ((decode27_rr t (packR3_top (h := by decide) ..)).trans (decodeR_packR3 ..)) rfl rfl
  | rri =>
    exact decodeWord_eq_of_27 t ((decode27_rri t (packRI_top (h := by decide) ..)).trans
      (decodeRI_packRI _ _ _ _ _ _ _ (by decide))) rfl rfl
  | rrm =>
    exact decodeWord_eq_of_27 t ((decode27_rrm t (packR3_top (h := by decide) ..)).trans (decodeR_packR3 ..)) rfl rfl
  | rrim =>
    exact decodeWord_eq_of_27 t ((decode27_rrim t (packRI_top (h := by decide) ..)).trans
      (decodeRI_packRI _ _ _ _ _ _ _ (by decide))) rfl rfl
  | mh =>
    exact decodeWord_eq_of_27 t ((decode27_mh t (packMI_top ..)).trans (decodeMI_packMI ..)) rfl rfl
  | ml =>
    exact decodeWord_eq_of_27 t ((decode27_ml t (packMI_top ..)).trans (decodeMI_packMI ..)) rfl rfl
  | ms =>
    exact decodeWord_eq_of_27 t ((decode27_ms t (packMI_top ..)).trans (decodeMI_packMI ..)) rfl rfl
  | ses =>
    exact decodeWord_eq_of_27 t ((decode27_ses t (packR2X_top ..)).trans (decodeR2X_packR2X ..)) rfl rfl
  | sew =>
    exact decodeWord_eq_of_27 t ((decode27_sew t (packR2X_top ..)).trans (decodeR2X_packR2X ..)) rfl rfl
  | zes =>
    exact decodeWord_eq_of_27 t ((decode27_zes t (packR2X_top ..)).trans (decodeR2X_packR2X ..)) rfl rfl
  | zew =>
    exact decodeWord_eq_of_27 t ((decode27_zew t (packR2X_top ..)).trans (decodeR2X_packR2X ..)) rfl rfl
  | rnd =>
    exact decodeWord_eq_of_27 t ((decode27_negate t (packR2U_top (h := by decide) ..)).trans (decodeR2U_random ..)) rfl rfl
  | rndm =>
    exact decodeWord_eq_of_27 t ((decode27_negatePair t (packR2U_top (h := by decide) ..)).trans (decodeR2U_random ..)) rfl rfl
  | cm =>
    exact decodeWord_eq_of_18 t ((decode18_cm t (packCR2_top ..)).trans (decodeCR2_packCR2 ..)) rfl rfl
  | cmi =>
    exact decodeWord_eq_of_27 t ((decode27_cmi t (packCI_top ..)).trans (decodeCI_packCI _ _ _ _ (by decide))) rfl rfl
  | cmm =>
    exact decodeWord_eq_of_18 t ((decode18_cmm t (packCR2_top ..)).trans (decodeCR2_packCR2 ..)) rfl rfl
  | cmim =>
    exact decodeWord_eq_of_27 t ((decode27_cmim t (packCI_top ..)).trans (decodeCI_packCI _ _ _ _ (by decide))) rfl rfl
  | b =>
    exact decodeWord_eq_of_27 t ((decode27_b t (packBO_top ..)).trans (decodeBO_packBO t _ _ _ _ h)) rfl rfl
  | br =>
    exact decodeWord_eq_of_18 t ((decode18_br t (packBR_top ..)).trans (decodeBR_packBR t _ _ _ _ h)) rfl rfl
  | bra =>
    exact decodeWord_eq_of_36 t (decode36_bra _) rfl rfl
  | brr =>
    exact decodeWord_eq_of_36 t (decode36_brr _) rfl rfl
  | c =>
    exact decodeWord_eq_of_27 t ((decode27_c t (packBO_top ..)).trans (decodeBO_packBO t _ _ _ _ h)) rfl rfl
  | cr =>
    exact decodeWord_eq_of_18 t ((decode18_cr t (packBR_top ..)).trans (decodeBR_packBR t _ _ _ _ h)) rfl rfl
  | caa =>
    exact decodeWord_eq_of_36 t (decode36_caa _) rfl rfl
  | car =>
    exact decodeWord_eq_of_36 t (decode36_car _) rfl rfl
  | re | ht | ir | wt | dbrk =>
    rfl
  | lds =>
    exact decodeWord_eq_of_54 t ((decode54_lds (packLS_top ..)).trans (decodeLS_packLS _ _ _ _ _ _ _ h)) rfl rfl
  | ldw =>
    exact decodeWord_eq_of_54 t ((decode54_ldw (packLS_top ..)).trans (decodeLS_packLS _ _ _ _ _ _ _ h)) rfl rfl
  | ldt =>
    exact decodeWord_eq_of_54 t ((decode54_ldt (packLS_top ..)).trans (decodeLS_packLS _ _ _ _ _ _ _ h)) rfl rfl
  | sts =>
    exact decodeWord_eq_of_54 t ((decode54_sts (packLS_top ..)).trans (decodeLS_packLS _ _ _ _ _ _ _ h)) rfl rfl
  | stw =>
    exact decodeWord_eq_of_54 t ((decode54_stw (packLS_top ..)).trans (decodeLS_packLS _ _ _ _ _ _ _ h)) rfl rfl
  | stt =>
    exact decodeWord_eq_of_54 t ((decode54_stt (packLS_top ..)).trans (decodeLS_packLS _ _ _ _ _ _ _ h)) rfl rfl
  | dmt =>
    exact decodeWord_eq_of_27 t ((decode27_dmt t (packR3_top (h := by decide) ..)).trans (decodeDmt_packR3 ..)) rfl rfl
  | adf =>
    exact decodeWord_eq_of_27 t ((decode27_adf t (packR3_top (h := by decide) ..)).trans (decodeR_packR3 ..)) rfl rfl
  | adfm =>
    exact decodeWord_eq_of_27 t ((decode27_adfm t (packR3_top (h := by decide) ..)).trans (decodeR_packR3 ..)) rfl rfl
  | sbf =>
    exact decodeWord_eq_of_27 t ((decode27_sbf t (packR3_top (h := by decide) ..)).trans (decodeR_packR3 ..)) rfl rfl
  | sbfm =>
    exact decodeWord_eq_of_27 t ((decode27_sbfm t (packR3_top (h := by decide) ..)).trans (decodeR_packR3 ..)) rfl rfl
  | muf =>
    exact decodeWord_eq_of_27 t ((decode27_muf t (packR3_top (h := by decide) ..)).trans (decodeR_packR3 ..)) rfl rfl
  | mufm =>
    exact decodeWord_eq_of_27 t ((decode27_mufm t (packR3_top (h := by decide) ..)).trans (decodeR_packR3 ..)) rfl rfl
  | dvf =>
    exact decodeWord_eq_of_27 t ((decode27_dvf t (packR3_top (h := by decide) ..)).trans (decodeR_packR3 ..)) rfl rfl
  | dvfm =>
    exact decodeWord_eq_of_27 t ((decode27_dvfm t (packR3_top (h := by decide) ..)).trans (decodeR_packR3 ..)) rfl rfl
  | mdf =>
    exact decodeWord_eq_of_27 t ((decode27_mdf t (packR3_top (h := by decide) ..)).trans (decodeR_packR3 ..)) rfl rfl
  | mdfm =>
    exact decodeWord_eq_of_27 t ((decode27_mdfm t (packR3_top (h := by decide) ..)).trans (decodeR_packR3 ..)) rfl rfl
  | cmf =>
    exact decodeWord_eq_of_18 t ((decode18_cmf t (packCR2_top ..)).trans (decodeCR2_packCR2 ..)) rfl rfl
  | cmfm =>
    exact decodeWord_eq_of_18 t ((decode18_cmfm t (packCR2_top ..)).trans (decodeCR2_packCR2 ..)) rfl rfl
  | ngf =>
    exact decodeWord_eq_of_27 t ((decode27_negateFloat t (packR2U_top (h := by decide) ..)).trans (decodeR2UF_packR2U ..)) rfl rfl
  | ngfm =>
    exact decodeWord_eq_of_27 t ((decode27_negateFloatPair t (packR2U_top (h := by decide) ..)).trans (decodeR2UF_packR2U ..)) rfl rfl
  | itf =>
    exact decodeWord_eq_of_27 t ((decode27_itf t (packR2C_top ..)).trans (decodeR2C_packR2C ..)) rfl rfl
  | itfm =>
    exact decodeWord_eq_of_27 t ((decode27_itfm t (packR2C_top ..)).trans (decodeR2C_packR2C ..)) rfl rfl
  | fti =>
    exact decodeWord_eq_of_27 t ((decode27_fti t (packR2C_top ..)).trans (decodeR2C_packR2C ..)) rfl rfl
  | ftim =>
    exact decodeWord_eq_of_27 t ((decode27_ftim t (packR2C_top ..)).trans (decodeR2C_packR2C ..)) rfl rfl
  | ei =>
    exact decodeWord_eq_of_18 t ((decodeWord_ei t (packR1_top ..)).trans (decodeR1_packR1 ..)) rfl rfl
  | di =>
    exact decodeWord_eq_of_18 t ((decodeWord_di t (packR1_top ..)).trans (decodeR1_packR1 ..)) rfl rfl
  | rf =>
    exact decodeWord_eq_of_18 t ((decodeWord_rf t (packR1_top ..)).trans (decodeR1_packR1 ..)) rfl rfl
  | sf =>
    exact decodeWord_eq_of_18 t ((decodeWord_sf t (packR1_top ..)).trans (decodeR1_packR1 ..)) rfl rfl
  | smp rA rB prot =>
    exact decodeWord_eq_of_27 t ((decode27_protection t (by omega)).trans (decodeMP_smp rA rB prot)) rfl rfl
  | rmp rA rB =>
    exact decodeWord_eq_of_27 t ((decode27_protection t (by omega)).trans (decodeMP_rmp rA rB)) rfl rfl

end Sys2Proof
end

section
/-! ## Only encodings decode (30_encoding.md R130): a format that answers an instruction was given the word that packs it. -/

namespace Sys2Proof

/-- The word of `len` bytes is that of the instruction, which is well-formed under the condition table. -/
structure Encodes (t : CondTable) (len w : Nat) (i : Instr) : Prop where
  wellFormed : WellFormed t i = true
  length : i.len = len
  word : encodeWord i = w

/-! ### A word is packed from its fields -/

/-- The last bit of a word. -/
theorem ufOf_toNat (w : Nat) : (ufOf w).toNat = w % 2 := by
  rcases Nat.mod_two_eq_zero_or_one w with h | h <;> simp [ufOf, h]

theorem packR3_fields {op k w : Nat} (ho : w / 2 ^ 20 = op) (hk : w / 2 % 16 = k) :
    packR3 op k (regAt w 15) (regAt w 10) (regAt w 5) (ufOf w) = w := by
  simp only [packR3, regAt, ufOf_toNat]
  omega

theorem packRI_fields {op k w : Nat} (ho : w / 2 ^ 20 = op) (hk : w / 2 % 4 = k) :
    packRI op k (regAt w 15) (regAt w 10) (immAt 7 w 3) (ufOf w) = w := by
  simp only [packRI, regAt, immAt, BitVec.toNat_ofNat, ufOf_toNat]
  omega

theorem packR2X_fields {op w : Nat} (ho : w / 2 ^ 15 = op) (hk : w % 32 = 0) :
    packR2X op (regAt w 10) (regAt w 5) = w := by
  simp only [packR2X, regAt]
  omega

theorem packR2C_fields {op w : Nat} (ho : w / 2 ^ 18 = op) (hk : w % 256 = 0) :
    packR2C op (regAt w 13) (regAt w 8) = w := by
  simp only [packR2C, regAt]
  omega

theorem packR2U_fields_eq {op fn w : Nat} (ho : w / 2 ^ 18 = op) (hf : w / 2 % 128 = fn) :
    packR2U op fn (regAt w 13) (regAt w 8) (ufOf w) = w := by
  simp only [packR2U, regAt, ufOf_toNat]
  omega

theorem packBO_fields {op w : Nat} (ho : w / 2 ^ 21 = op) : packBO op (condAt w 17) (immAt 17 w 0) = w := by
  simp only [packBO, condAt, immAt, BitVec.toNat_ofNat]
  omega

theorem packBR_fields {op w : Nat} (ho : w / 2 ^ 12 = op) (hk : w % 8 = 0) : packBR op (condAt w 8) (regAt w 3) = w := by
  simp only [packBR, condAt, regAt]
  omega

theorem packR1_fields {op w : Nat} (ho : w / 2 ^ 6 = op) (hk : w % 2 = 0) : packR1 op (regAt w 1) = w := by
  simp only [packR1, regAt]
  omega

theorem packCR2_fields {op w : Nat} (ho : w / 2 ^ 10 = op) : packCR2 op (regAt w 5) (regAt w 0) = w := by
  simp only [packCR2, regAt]
  omega

theorem packCI_fields {op w : Nat} (ho : w / 2 ^ 19 = op) : packCI op (regAt w 14) (immAt 14 w 0) = w := by
  simp only [packCI, regAt, immAt, BitVec.toNat_ofNat]
  omega

theorem packMI_fields {op w : Nat} (ho : w / 2 ^ 22 = op) : packMI op (regAt w 17) (immAt 17 w 0) = w := by
  simp only [packMI, regAt, immAt, BitVec.toNat_ofNat]
  omega

theorem packA36_fields {op w : Nat} (ho : w / 2 ^ 27 = op) : packA36 op (immAt 27 w 0) = w := by
  simp only [packA36, immAt, BitVec.toNat_ofNat]
  omega

theorem packLS_fields {op w : Nat} (ho : w / 2 ^ 47 = op) (hk : w % 8 = 0) :
    packLS op (regAt w 42) (regAt w 37) (regAt w 32) (modeAt w 30) (immAt 27 w 3) = w := by
  simp only [packLS, regAt, modeAt, immAt, BitVec.toNat_ofNat]
  omega

/-! ### A format that answers an instruction -/

/-- Constant fields hold the printed bits when the instruction is kept. -/
theorem decodeIf_ok {c : Prop} [Decidable c] {i j : Instr} (h : decodeIf c i = .ok j) : c ∧ i = j := by
  unfold decodeIf at h
  split at h
  · next hc => exact ⟨hc, by injection h⟩
  · cases h

variable {t : CondTable} {w op : Nat} {j : Instr}

theorem encodes_of_decodeR3 {k : Nat} {mk : MkR3} (ho : w / 2 ^ 20 = op) (h : decodeR3 k w mk = .ok j)
    (hm : ∀ a b c u, Encodes t 3 (packR3 op k a b c u) (mk a b c u)) : Encodes t 3 w j := by
  obtain ⟨hk, rfl⟩ := decodeIf_ok h
  simpa only [packR3_fields ho hk] using hm (regAt w 15) (regAt w 10) (regAt w 5) (ufOf w)

theorem encodes_of_decodeRI {k : Nat} {mk : MkRI} (ho : w / 2 ^ 20 = op) (h : decodeRI k w mk = .ok j)
    (hm : ∀ a b v u, Encodes t 3 (packRI op k a b v u) (mk a b v u)) : Encodes t 3 w j := by
  obtain ⟨hk, rfl⟩ := decodeIf_ok h
  simpa only [packRI_fields ho hk] using hm (regAt w 15) (regAt w 10) (immAt 7 w 3) (ufOf w)

theorem encodes_of_decodeR {mk : MkR3} (ho : w / 2 ^ 20 = op) (h : decodeR w mk = .ok j)
    (hm : ∀ a b c u, Encodes t 3 (packR3 op 0 a b c u) (mk a b c u)) : Encodes t 3 w j := encodes_of_decodeR3 ho h hm

theorem encodes_of_decodeRorI {r : MkR3} {i : MkRI} (ho : w / 2 ^ 20 = op) (h : decodeRorI w r i = .ok j)
    (hr : ∀ a b c u, Encodes t 3 (packR3 op 0 a b c u) (r a b c u))
    (hi : ∀ a b v u, Encodes t 3 (packRI op 1 a b v u) (i a b v u)) : Encodes t 3 w j := by
  unfold decodeRorI at h
  split at h
  · exact encodes_of_decodeR3 ho h hr
  · exact encodes_of_decodeRI ho h hi

theorem encodes_of_decodeSigned {r rs : MkR3} {i is : MkRI} (ho : w / 2 ^ 20 = op) (h : decodeSigned w r i rs is = .ok j)
    (hr : ∀ a b c u, Encodes t 3 (packR3 op 0 a b c u) (r a b c u))
    (hi : ∀ a b v u, Encodes t 3 (packRI op 1 a b v u) (i a b v u))
    (hrs : ∀ a b c u, Encodes t 3 (packR3 op 2 a b c u) (rs a b c u))
    (his : ∀ a b v u, Encodes t 3 (packRI op 3 a b v u) (is a b v u)) : Encodes t 3 w j := by
  unfold decodeSigned at h
  split at h
  · exact encodes_of_decodeR3 ho h hr
  · exact encodes_of_decodeRI ho h hi
  · exact encodes_of_decodeR3 ho h hrs
  · exact encodes_of_decodeRI ho h his

theorem encodes_of_decodeR2X {mk : RegNo → RegNo → Instr} (ho : w / 2 ^ 15 = op) (h : decodeR2X w mk = .ok j)
    (hm : ∀ a b, Encodes t 3 (packR2X op a b) (mk a b)) : Encodes t 3 w j := by
  obtain ⟨hk, rfl⟩ := decodeIf_ok h
  simpa only [packR2X_fields ho hk] using hm (regAt w 10) (regAt w 5)

theorem encodes_of_decodeR2C {mk : RegNo → RegNo → Instr} (ho : w / 2 ^ 18 = op) (h : decodeR2C w mk = .ok j)
    (hm : ∀ a b, Encodes t 3 (packR2C op a b) (mk a b)) : Encodes t 3 w j := by
  obtain ⟨hk, rfl⟩ := decodeIf_ok h
  simpa only [packR2C_fields ho hk] using hm (regAt w 13) (regAt w 8)

theorem encodes_of_decodeR2U {ng nt bf : RegNo → RegNo → Bool → Instr} {rnd : RegNo → Bool → Instr}
    (ho : w / 2 ^ 18 = op) (h : decodeR2U w ng nt bf rnd = .ok j)
    (hng : ∀ a b u, Encodes t 3 (packR2U op 0 a b u) (ng a b u)) (hnt : ∀ a b u, Encodes t 3 (packR2U op 32 a b u) (nt a b u))
    (hbf : ∀ a b u, Encodes t 3 (packR2U op 64 a b u) (bf a b u))
    (hrnd : ∀ a u, Encodes t 3 (packR2U op 96 a 0 u) (rnd a u)) : Encodes t 3 w j := by
  unfold decodeR2U at h
  split at h
  · next hf => cases h; simpa only [packR2U_fields_eq ho hf] using hng (regAt w 13) (regAt w 8) (ufOf w)
  · next hf => cases h; simpa only [packR2U_fields_eq ho hf] using hnt (regAt w 13) (regAt w 8) (ufOf w)
  · next hf => cases h; simpa only [packR2U_fields_eq ho hf] using hbf (regAt w 13) (regAt w 8) (ufOf w)
  · next hf =>
    obtain ⟨hz, rfl⟩ := decodeIf_ok h
    have noReg : (0 : RegNo) = regAt w 8 := Fin.ext hz.symm
    simpa only [noReg, packR2U_fields_eq ho hf] using hrnd (regAt w 13) (ufOf w)
  · cases h

theorem encodes_of_decodeR2UF {ng : RegNo → RegNo → Bool → Instr} (ho : w / 2 ^ 18 = op) (h : decodeR2UF w ng = .ok j)
    (hm : ∀ a b u, Encodes t 3 (packR2U op 0 a b u) (ng a b u)) : Encodes t 3 w j := by
  obtain ⟨hk, rfl⟩ := decodeIf_ok h
  simpa only [packR2U_fields_eq ho hk] using hm (regAt w 13) (regAt w 8) (ufOf w)

theorem encodes_of_decodeMP (ho : w / 2 ^ 20 = 82) (h : decodeMP w = .ok j) : Encodes t 3 w j := by
  unfold decodeMP at h
  split at h
  · obtain ⟨hk, rfl⟩ := decodeIf_ok h
    exact ⟨rfl, rfl, by simp only [encodeWord, regAt]; omega⟩
  · obtain ⟨hk, rfl⟩ := decodeIf_ok h
    exact ⟨rfl, rfl, by simp only [encodeWord, regAt, immAt, BitVec.toNat_ofNat]; omega⟩

theorem encodes_of_decodeDmt (ho : w / 2 ^ 20 = 52)
    (h : decodeIf (w % 32 = 0) (.dmt (regAt w 15) (regAt w 10) (regAt w 5)) = .ok j) : Encodes t 3 w j := by
  obtain ⟨hk, rfl⟩ := decodeIf_ok h
  exact ⟨rfl, rfl, by simp only [encodeWord, packR3, regAt, Bool.toNat_false]; omega⟩

theorem encodes_of_decodeBO {mk : Fin 16 → BitVec 17 → Instr} (ho : w / 2 ^ 21 = op) (h : decodeBO t w mk = .ok j)
    (hm : ∀ c v, condAssigned t c = true → Encodes t 3 (packBO op c v) (mk c v)) : Encodes t 3 w j := by
  unfold decodeBO at h
  split at h
  · next hc => cases h; simpa only [packBO_fields ho] using hm (condAt w 17) (immAt 17 w 0) hc
  · cases h

theorem encodes_of_decodeBR {mk : Fin 16 → RegNo → Instr} (ho : w / 2 ^ 12 = op) (h : decodeBR t w mk = .ok j)
    (hm : ∀ c a, condAssigned t c = true → Encodes t 2 (packBR op c a) (mk c a)) : Encodes t 2 w j := by
  unfold decodeBR at h
  split at h
  · next hk =>
    split at h
    · next hc => cases h; simpa only [packBR_fields ho hk] using hm (condAt w 8) (regAt w 3) hc
    · cases h
  · cases h

theorem encodes_of_decodeR1 {mk : RegNo → Instr} (ho : w / 2 ^ 6 = op) (h : decodeR1 w mk = .ok j)
    (hm : ∀ a, Encodes t 2 (packR1 op a) (mk a)) : Encodes t 2 w j := by
  obtain ⟨hk, rfl⟩ := decodeIf_ok h
  simpa only [packR1_fields ho hk] using hm (regAt w 1)

theorem encodes_of_decodeCR2 {mk : RegNo → RegNo → Instr} (ho : w / 2 ^ 10 = op) (h : decodeCR2 w mk = .ok j)
    (hm : ∀ a b, Encodes t 2 (packCR2 op a b) (mk a b)) : Encodes t 2 w j := by
  cases h
  simpa only [packCR2_fields ho] using hm (regAt w 5) (regAt w 0)

theorem encodes_of_decodeCI {mk : RegNo → BitVec 14 → Instr} (ho : w / 2 ^ 20 = op) (h : decodeCI w mk = .ok j)
    (hm : ∀ a v, Encodes t 3 (packCI (2 * op + 1) a v) (mk a v)) : Encodes t 3 w j := by
  obtain ⟨hk, rfl⟩ := decodeIf_ok h
  simpa only [packCI_fields (show w / 2 ^ 19 = 2 * op + 1 by omega)] using hm (regAt w 14) (immAt 14 w 0)

theorem encodes_of_decodeMI {mk : RegNo → BitVec 17 → Instr} (ho : w / 2 ^ 22 = op) (h : decodeMI w mk = .ok j)
    (hm : ∀ a v, Encodes t 3 (packMI op a v) (mk a v)) : Encodes t 3 w j := by
  cases h
  simpa only [packMI_fields ho] using hm (regAt w 17) (immAt 17 w 0)

theorem encodes_of_decodeLS {mk : RegNo → RegNo → Fin 32 → Fin 4 → BitVec 27 → Instr} (ho : w / 2 ^ 47 = op)
    (h : decodeLS w mk = .ok j)
    (hm : ∀ a b n m v, modeAssigned m = true → Encodes t 6 (packLS op a b n m v) (mk a b n m v)) : Encodes t 6 w j := by
  unfold decodeLS at h
  split at h
  · next hk =>
    split at h
    · next hc =>
      cases h
      simpa only [packLS_fields ho hk] using hm (regAt w 42) (regAt w 37) (regAt w 32) (modeAt w 30) (immAt 27 w 3) hc
    · cases h
  · cases h

/-! ### The opcode map -/

/-- The last of four values. -/
theorem mod_four_eq_three {n : Nat} (h0 : n % 4 ≠ 0) (h1 : n % 4 ≠ 1) (h2 : n % 4 ≠ 2) : n % 4 = 3 := by omega

/-- A 27-bit word that decodes is the word of its instruction. -/
theorem encodes_of_decode27 (h : decode27 t w = .ok j) : Encodes t 3 w j := by
  unfold decode27 at h
  split at h
  · next ho => exact encodes_of_decodeRorI ho h (fun _ _ _ _ => ⟨rfl, rfl, rfl⟩) (fun _ _ _ _ => ⟨rfl, rfl, rfl⟩)
  · next ho => exact encodes_of_decodeR ho h (fun _ _ _ _ => ⟨rfl, rfl, rfl⟩)
  · next ho => exact encodes_of_decodeRorI ho h (fun _ _ _ _ => ⟨rfl, rfl, rfl⟩) (fun _ _ _ _ => ⟨rfl, rfl, rfl⟩)
  · next ho => exact encodes_of_decodeR ho h (fun _ _ _ _ => ⟨rfl, rfl, rfl⟩)
  · next ho => exact encodes_of_decodeRorI ho h (fun _ _ _ _ => ⟨rfl, rfl, rfl⟩) (fun _ _ _ _ => ⟨rfl, rfl, rfl⟩)
  · next ho => exact encodes_of_decodeR ho h (fun _ _ _ _ => ⟨rfl, rfl, rfl⟩)
  · next ho => exact encodes_of_decodeRorI ho h (fun _ _ _ _ => ⟨rfl, rfl, rfl⟩) (fun _ _ _ _ => ⟨rfl, rfl, rfl⟩)
  · next ho => exact encodes_of_decodeR ho h (fun _ _ _ _ => ⟨rfl, rfl, rfl⟩)
  · next ho => exact encodes_of_decodeSigned ho h (fun _ _ _ _ => ⟨rfl, rfl, rfl⟩) (fun _ _ _ _ => ⟨rfl, rfl, rfl⟩) (fun _ _ _ _ => ⟨rfl, rfl, rfl⟩) (fun _ _ _ _ => ⟨rfl, rfl, rfl⟩)
  · next ho => exact encodes_of_decodeR ho h (fun _ _ _ _ => ⟨rfl, rfl, rfl⟩)
  · next ho => exact encodes_of_decodeSigned ho h (fun _ _ _ _ => ⟨rfl, rfl, rfl⟩) (fun _ _ _ _ => ⟨rfl, rfl, rfl⟩) (fun _ _ _ _ => ⟨rfl, rfl, rfl⟩) (fun _ _ _ _ => ⟨rfl, rfl, rfl⟩)
  · next ho => exact encodes_of_decodeR ho h (fun _ _ _ _ => ⟨rfl, rfl, rfl⟩)
  · next ho => exact encodes_of_decodeSigned ho h (fun _ _ _ _ => ⟨rfl, rfl, rfl⟩) (fun _ _ _ _ => ⟨rfl, rfl, rfl⟩) (fun _ _ _ _ => ⟨rfl, rfl, rfl⟩) (fun _ _ _ _ => ⟨rfl, rfl, rfl⟩)
  · next ho => exact encodes_of_decodeR ho h (fun _ _ _ _ => ⟨rfl, rfl, rfl⟩)
  · next ho => exact encodes_of_decodeSigned ho h (fun _ _ _ _ => ⟨rfl, rfl, rfl⟩) (fun _ _ _ _ => ⟨rfl, rfl, rfl⟩) (fun _ _ _ _ => ⟨rfl, rfl, rfl⟩) (fun _ _ _ _ => ⟨rfl, rfl, rfl⟩)
  · next ho => exact encodes_of_decodeR ho h (fun _ _ _ _ => ⟨rfl, rfl, rfl⟩)
  · next ho => exact encodes_of_decodeSigned ho h (fun _ _ _ _ => ⟨rfl, rfl, rfl⟩) (fun _ _ _ _ => ⟨rfl, rfl, rfl⟩) (fun _ _ _ _ => ⟨rfl, rfl, rfl⟩) (fun _ _ _ _ => ⟨rfl, rfl, rfl⟩)
  · next ho => exact encodes_of_decodeR ho h (fun _ _ _ _ => ⟨rfl, rfl, rfl⟩)
  · next ho => exact encodes_of_decodeSigned ho h (fun _ _ _ _ => ⟨rfl, rfl, rfl⟩) (fun _ _ _ _ => ⟨rfl, rfl, rfl⟩) (fun _ _ _ _ => ⟨rfl, rfl, rfl⟩) (fun _ _ _ _ => ⟨rfl, rfl, rfl⟩)
  · next ho => exact encodes_of_decodeR ho h (fun _ _ _ _ => ⟨rfl, rfl, rfl⟩)
  · next ho => exact encodes_of_decodeRorI ho h (fun _ _ _ _ => ⟨rfl, rfl, rfl⟩) (fun _ _ _ _ => ⟨rfl, rfl, rfl⟩)
  · next ho => exact encodes_of_decodeR ho h (fun _ _ _ _ => ⟨rfl, rfl, rfl⟩)
  · next ho => exact encodes_of_decodeRorI ho h (fun _ _ _ _ => ⟨rfl, rfl, rfl⟩) (fun _ _ _ _ => ⟨rfl, rfl, rfl⟩)
  · next ho => exact encodes_of_decodeR ho h (fun _ _ _ _ => ⟨rfl, rfl, rfl⟩)
  · next ho => exact encodes_of_decodeRorI ho h (fun _ _ _ _ => ⟨rfl, rfl, rfl⟩) (fun _ _ _ _ => ⟨rfl, rfl, rfl⟩)
  · next ho => exact encodes_of_decodeR ho h (fun _ _ _ _ => ⟨rfl, rfl, rfl⟩)
  · next ho => exact encodes_of_decodeRorI ho h (fun _ _ _ _ => ⟨rfl, rfl, rfl⟩) (fun _ _ _ _ => ⟨rfl, rfl, rfl⟩)
  · next ho => exact encodes_of_decodeRorI ho h (fun _ _ _ _ => ⟨rfl, rfl, rfl⟩) (fun _ _ _ _ => ⟨rfl, rfl, rfl⟩)
  · next ho => exact encodes_of_decodeRorI ho h (fun _ _ _ _ => ⟨rfl, rfl, rfl⟩) (fun _ _ _ _ => ⟨rfl, rfl, rfl⟩)
  · next ho => exact encodes_of_decodeRorI ho h (fun _ _ _ _ => ⟨rfl, rfl, rfl⟩) (fun _ _ _ _ => ⟨rfl, rfl, rfl⟩)
  · next ho => exact encodes_of_decodeR ho h (fun _ _ _ _ => ⟨rfl, rfl, rfl⟩)
  · next ho => exact encodes_of_decodeR ho h (fun _ _ _ _ => ⟨rfl, rfl, rfl⟩)
  · next ho => exact encodes_of_decodeR ho h (fun _ _ _ _ => ⟨rfl, rfl, rfl⟩)
  · next ho => exact encodes_of_decodeR ho h (fun _ _ _ _ => ⟨rfl, rfl, rfl⟩)
  · next ho => exact encodes_of_decodeR ho h (fun _ _ _ _ => ⟨rfl, rfl, rfl⟩)
  · next ho => exact encodes_of_decodeR ho h (fun _ _ _ _ => ⟨rfl, rfl, rfl⟩)
  · next ho => exact encodes_of_decodeR ho h (fun _ _ _ _ => ⟨rfl, rfl, rfl⟩)
  · next ho => exact encodes_of_decodeR ho h (fun _ _ _ _ => ⟨rfl, rfl, rfl⟩)
  · next ho => exact encodes_of_decodeR ho h (fun _ _ _ _ => ⟨rfl, rfl, rfl⟩)
  · next ho => exact encodes_of_decodeR ho h (fun _ _ _ _ => ⟨rfl, rfl, rfl⟩)
  · next ho => exact encodes_of_decodeDmt ho h
  · next ho => exact encodes_of_decodeRI ho h (fun _ _ _ _ => ⟨rfl, rfl, rfl⟩)
  · next ho => exact encodes_of_decodeRI ho h (fun _ _ _ _ => ⟨rfl, rfl, rfl⟩)
  · next ho => exact encodes_of_decodeRI ho h (fun _ _ _ _ => ⟨rfl, rfl, rfl⟩)
  · next ho => exact encodes_of_decodeRI ho h (fun _ _ _ _ => ⟨rfl, rfl, rfl⟩)
  · next ho => exact encodes_of_decodeRI ho h (fun _ _ _ _ => ⟨rfl, rfl, rfl⟩)
  · next ho => exact encodes_of_decodeRI ho h (fun _ _ _ _ => ⟨rfl, rfl, rfl⟩)
  · next ho => exact encodes_of_decodeRI ho h (fun _ _ _ _ => ⟨rfl, rfl, rfl⟩)
  · next ho => exact encodes_of_decodeRI ho h (fun _ _ _ _ => ⟨rfl, rfl, rfl⟩)
  · next ho => exact encodes_of_decodeRI ho h (fun _ _ _ _ => ⟨rfl, rfl, rfl⟩)
  · next ho => exact encodes_of_decodeRI ho h (fun _ _ _ _ => ⟨rfl, rfl, rfl⟩)
  · exact encodes_of_decodeMI (op := 17) (by omega) h (fun _ _ => ⟨rfl, rfl, rfl⟩)
  · exact encodes_of_decodeMI (op := 17) (by omega) h (fun _ _ => ⟨rfl, rfl, rfl⟩)
  · exact encodes_of_decodeMI (op := 17) (by omega) h (fun _ _ => ⟨rfl, rfl, rfl⟩)
  · exact encodes_of_decodeMI (op := 17) (by omega) h (fun _ _ => ⟨rfl, rfl, rfl⟩)
  · exact encodes_of_decodeMI (op := 18) (by omega) h (fun _ _ => ⟨rfl, rfl, rfl⟩)
  · exact encodes_of_decodeMI (op := 18) (by omega) h (fun _ _ => ⟨rfl, rfl, rfl⟩)
  · exact encodes_of_decodeMI (op := 18) (by omega) h (fun _ _ => ⟨rfl, rfl, rfl⟩)
  · exact encodes_of_decodeMI (op := 18) (by omega) h (fun _ _ => ⟨rfl, rfl, rfl⟩)
  · exact encodes_of_decodeMI (op := 19) (by omega) h (fun _ _ => ⟨rfl, rfl, rfl⟩)
  · exact encodes_of_decodeMI (op := 19) (by omega) h (fun _ _ => ⟨rfl, rfl, rfl⟩)
  · exact encodes_of_decodeMI (op := 19) (by omega) h (fun _ _ => ⟨rfl, rfl, rfl⟩)
  · exact encodes_of_decodeMI (op := 19) (by omega) h (fun _ _ => ⟨rfl, rfl, rfl⟩)
  · next ho =>
    split at h
    · exact encodes_of_decodeR2X (op := 2567) (by omega) h (fun _ _ => ⟨rfl, rfl, rfl⟩)
    · exact encodes_of_decodeR2X (op := 2568) (by omega) h (fun _ _ => ⟨rfl, rfl, rfl⟩)
    · exact encodes_of_decodeR2X (op := 2569) (by omega) h (fun _ _ => ⟨rfl, rfl, rfl⟩)
    · exact encodes_of_decodeR2X (op := 2570) (by omega) h (fun _ _ => ⟨rfl, rfl, rfl⟩)
    · cases h
  · next ho =>
    split at h
    · exact encodes_of_decodeR2C (op := 324) (by omega) h (fun _ _ => ⟨rfl, rfl, rfl⟩)
    · exact encodes_of_decodeR2C (op := 325) (by omega) h (fun _ _ => ⟨rfl, rfl, rfl⟩)
    · exact encodes_of_decodeR2C (op := 326) (by omega) h (fun _ _ => ⟨rfl, rfl, rfl⟩)
    · next h0 h1 h2 =>
      have last := mod_four_eq_three h0 h1 h2
      exact encodes_of_decodeR2C (op := 327) (by omega) h (fun _ _ => ⟨rfl, rfl, rfl⟩)
  · next ho => exact encodes_of_decodeMP ho h
  · next ho =>
    split at h
    · exact encodes_of_decodeR2U (op := 332) (by omega) h (fun _ _ _ => ⟨rfl, rfl, rfl⟩) (fun _ _ _ => ⟨rfl, rfl, rfl⟩) (fun _ _ _ => ⟨rfl, rfl, rfl⟩) (fun _ _ => ⟨rfl, rfl, rfl⟩)
    · exact encodes_of_decodeR2UF (op := 333) (by omega) h (fun _ _ _ => ⟨rfl, rfl, rfl⟩)
    · exact encodes_of_decodeR2U (op := 334) (by omega) h (fun _ _ _ => ⟨rfl, rfl, rfl⟩) (fun _ _ _ => ⟨rfl, rfl, rfl⟩) (fun _ _ _ => ⟨rfl, rfl, rfl⟩) (fun _ _ => ⟨rfl, rfl, rfl⟩)
    · next h0 h1 h2 =>
      have last := mod_four_eq_three h0 h1 h2
      exact encodes_of_decodeR2UF (op := 335) (by omega) h (fun _ _ _ => ⟨rfl, rfl, rfl⟩)
  · next ho => exact encodes_of_decodeCI ho h (fun _ _ => ⟨rfl, rfl, rfl⟩)
  · next ho => exact encodes_of_decodeCI ho h (fun _ _ => ⟨rfl, rfl, rfl⟩)
  · exact encodes_of_decodeBO (op := 48) (by omega) h (fun _ _ hc => ⟨hc, rfl, rfl⟩)
  · exact encodes_of_decodeBO (op := 48) (by omega) h (fun _ _ hc => ⟨hc, rfl, rfl⟩)
  · exact encodes_of_decodeBO (op := 53) (by omega) h (fun _ _ hc => ⟨hc, rfl, rfl⟩)
  · exact encodes_of_decodeBO (op := 53) (by omega) h (fun _ _ hc => ⟨hc, rfl, rfl⟩)
  · cases h

/-- An 18-bit system word that decodes is the word of its instruction. -/
theorem encodes_of_decodeSystem18 (ho : w / 2 ^ 10 = 160 ∨ w / 2 ^ 10 = 161) (h : decodeSystem18 w = .ok j) :
    Encodes t 2 w j := by
  unfold decodeSystem18 at h
  split at h
  · obtain ⟨hk, rfl⟩ := decodeIf_ok h
    exact ⟨rfl, rfl, by simp only [encodeWord]; omega⟩
  · obtain ⟨hk, rfl⟩ := decodeIf_ok h
    exact ⟨rfl, rfl, by simp only [encodeWord]; omega⟩
  · obtain ⟨hk, rfl⟩ := decodeIf_ok h
    exact ⟨rfl, rfl, by simp only [encodeWord]; omega⟩
  · obtain ⟨hk, rfl⟩ := decodeIf_ok h
    exact ⟨rfl, rfl, by simp only [encodeWord]; omega⟩
  · exact encodes_of_decodeR1 (op := 2564) (by omega) h fun _ => ⟨rfl, rfl, rfl⟩
  · exact encodes_of_decodeR1 (op := 2565) (by omega) h fun _ => ⟨rfl, rfl, rfl⟩
  · exact encodes_of_decodeR1 (op := 2571) (by omega) h fun _ => ⟨rfl, rfl, rfl⟩
  · exact encodes_of_decodeR1 (op := 2572) (by omega) h fun _ => ⟨rfl, rfl, rfl⟩
  · cases h

/-- An 18-bit word that decodes is the word of its instruction. -/
theorem encodes_of_decode18 (h : decode18 t w = .ok j) : Encodes t 2 w j := by
  unfold decode18 at h
  split at h
  · next ho => exact encodes_of_decodeSystem18 (.inl ho) h
  · next ho => exact encodes_of_decodeSystem18 (.inr ho) h
  · next ho => exact encodes_of_decodeCR2 ho h (fun _ _ => ⟨rfl, rfl, rfl⟩)
  · next ho => exact encodes_of_decodeCR2 ho h (fun _ _ => ⟨rfl, rfl, rfl⟩)
  · next ho => exact encodes_of_decodeCR2 ho h (fun _ _ => ⟨rfl, rfl, rfl⟩)
  · next ho => exact encodes_of_decodeCR2 ho h (fun _ _ => ⟨rfl, rfl, rfl⟩)
  · exact encodes_of_decodeBR (op := 50) (by omega) h (fun _ _ hc => ⟨hc, rfl, rfl⟩)
  · exact encodes_of_decodeBR (op := 50) (by omega) h (fun _ _ hc => ⟨hc, rfl, rfl⟩)
  · exact encodes_of_decodeBR (op := 50) (by omega) h (fun _ _ hc => ⟨hc, rfl, rfl⟩)
  · exact encodes_of_decodeBR (op := 50) (by omega) h (fun _ _ hc => ⟨hc, rfl, rfl⟩)
  · exact encodes_of_decodeBR (op := 55) (by omega) h (fun _ _ hc => ⟨hc, rfl, rfl⟩)
  · exact encodes_of_decodeBR (op := 55) (by omega) h (fun _ _ hc => ⟨hc, rfl, rfl⟩)
  · exact encodes_of_decodeBR (op := 55) (by omega) h (fun _ _ hc => ⟨hc, rfl, rfl⟩)
  · exact encodes_of_decodeBR (op := 55) (by omega) h (fun _ _ hc => ⟨hc, rfl, rfl⟩)
  · next ho =>
    obtain ⟨hk, rfl⟩ := decodeIf_ok h
    exact ⟨rfl, rfl, by simp only [encodeWord]; omega⟩
  · cases h

/-- A 36-bit word that decodes is the word of its instruction. -/
theorem encodes_of_decode36 (h : decode36 w = .ok j) : Encodes t 4 w j := by
  simp only [decode36] at h
  split at h
  · next ho => cases h; exact ⟨rfl, rfl, packA36_fields ho⟩
  · split at h
    · next ho => cases h; exact ⟨rfl, rfl, packA36_fields ho⟩
    · split at h
      · next ho => cases h; exact ⟨rfl, rfl, packA36_fields ho⟩
      · split at h
        · next ho => cases h; exact ⟨rfl, rfl, packA36_fields ho⟩
        · cases h

/-- A 54-bit word that decodes is the word of its instruction. -/
theorem encodes_of_decode54 (h : decode54 w = .ok j) : Encodes t 6 w j := by
  unfold decode54 at h
  split at h
  · next ho => exact encodes_of_decodeLS ho h fun _ _ _ _ _ hc => ⟨hc, rfl, rfl⟩
  · next ho => exact encodes_of_decodeLS ho h fun _ _ _ _ _ hc => ⟨hc, rfl, rfl⟩
  · next ho => exact encodes_of_decodeLS ho h fun _ _ _ _ _ hc => ⟨hc, rfl, rfl⟩
  · next ho => exact encodes_of_decodeLS ho h fun _ _ _ _ _ hc => ⟨hc, rfl, rfl⟩
  · next ho => exact encodes_of_decodeLS ho h fun _ _ _ _ _ hc => ⟨hc, rfl, rfl⟩
  · next ho => exact encodes_of_decodeLS ho h fun _ _ _ _ _ hc => ⟨hc, rfl, rfl⟩
  · cases h

/-- A word of any length that decodes is the word of its instruction. -/
theorem encodes_of_decodeWord {len : Nat} (h : decodeWord t len w = .ok j) : Encodes t len w j := by
  unfold decodeWord at h
  split at h
  · exact encodes_of_decode18 h
  · exact encodes_of_decode27 h
  · exact encodes_of_decode36 h
  · exact encodes_of_decode54 h
  · cases h

end Sys2Proof

/-! ### The round trip -/

namespace Sys2Proof

open Sys2Proof.Laws in
/-- The word of every instruction fits its length, and its leading bits select that length. -/
theorem encodedLength (i : Instr) : EncodedLength.Statement i := by
  cases i with
  | ad => exact EncodedLength.ad ..
  | adi => exact EncodedLength.adi ..
  | adm => exact EncodedLength.adm ..
  | adim => exact EncodedLength.adim ..
  | adc => exact EncodedLength.adc ..
  | adci => exact EncodedLength.adci ..
  | adcm => exact EncodedLength.adcm ..
  | adcim => exact EncodedLength.adcim ..
  | sb => exact EncodedLength.sb ..
  | sbi => exact EncodedLength.sbi ..
  | sbm => exact EncodedLength.sbm ..
  | sbim => exact EncodedLength.sbim ..
  | sbc => exact EncodedLength.sbc ..
  | sbci => exact EncodedLength.sbci ..
  | sbcm => exact EncodedLength.sbcm ..
  | sbcim => exact EncodedLength.sbcim ..
  | mu => exact EncodedLength.mu ..
  | mui => exact EncodedLength.mui ..
  | mum => exact EncodedLength.mum ..
  | muim => exact EncodedLength.muim ..
  | mus => exact EncodedLength.mus ..
  | muis => exact EncodedLength.muis ..
  | musm => exact EncodedLength.musm ..
  | muism => exact EncodedLength.muism ..
  | dv => exact EncodedLength.dv ..
  | dvi => exact EncodedLength.dvi ..
  | dvm => exact EncodedLength.dvm ..
  | dvim => exact EncodedLength.dvim ..
  | dvs => exact EncodedLength.dvs ..
  | dvis => exact EncodedLength.dvis ..
  | dvsm => exact EncodedLength.dvsm ..
  | dvism => exact EncodedLength.dvism ..
  | md => exact EncodedLength.md ..
  | mdi => exact EncodedLength.mdi ..
  | mdm => exact EncodedLength.mdm ..
  | mdim => exact EncodedLength.mdim ..
  | mds => exact EncodedLength.mds ..
  | mdis => exact EncodedLength.mdis ..
  | mdsm => exact EncodedLength.mdsm ..
  | mdism => exact EncodedLength.mdism ..
  | an => exact EncodedLength.an ..
  | ani => exact EncodedLength.ani ..
  | anm => exact EncodedLength.anm ..
  | or => exact EncodedLength.or ..
  | ori => exact EncodedLength.ori ..
  | orm => exact EncodedLength.orm ..
  | xr => exact EncodedLength.xr ..
  | xri => exact EncodedLength.xri ..
  | xrm => exact EncodedLength.xrm ..
  | bf => exact EncodedLength.bf ..
  | bfm => exact EncodedLength.bfm ..
  | ng => exact EncodedLength.ng ..
  | ngm => exact EncodedLength.ngm ..
  | nt => exact EncodedLength.nt ..
  | ntm => exact EncodedLength.ntm ..
  | sl => exact EncodedLength.sl ..
  | sli => exact EncodedLength.sli ..
  | slm => exact EncodedLength.slm ..
  | slim => exact EncodedLength.slim ..
  | sr => exact EncodedLength.sr ..
  | sri => exact EncodedLength.sri ..
  | srm => exact EncodedLength.srm ..
  | srim => exact EncodedLength.srim ..
  | sa => exact EncodedLength.sa ..
  | sai => exact EncodedLength.sai ..
  | sam => exact EncodedLength.sam ..
  | saim => exact EncodedLength.saim ..
  | rl => exact EncodedLength.rl ..
  | rli => exact EncodedLength.rli ..
  | rlm => exact EncodedLength.rlm ..
  | rlim => exact EncodedLength.rlim ..
  | rr => exact EncodedLength.rr ..
  | rri => exact EncodedLength.rri ..
  | rrm => exact EncodedLength.rrm ..
  | rrim => exact EncodedLength.rrim ..
  | mh => exact EncodedLength.mh ..
  | ml => exact EncodedLength.ml ..
  | ms => exact EncodedLength.ms ..
  | ses => exact EncodedLength.ses ..
  | sew => exact EncodedLength.sew ..
  | zes => exact EncodedLength.zes ..
  | zew => exact EncodedLength.zew ..
  | rnd => exact EncodedLength.rnd ..
  | rndm => exact EncodedLength.rndm ..
  | cm => exact EncodedLength.cm ..
  | cmi => exact EncodedLength.cmi ..
  | cmm => exact EncodedLength.cmm ..
  | cmim => exact EncodedLength.cmim ..
  | b => exact EncodedLength.b ..
  | br => exact EncodedLength.br ..
  | bra => exact EncodedLength.bra ..
  | brr => exact EncodedLength.brr ..
  | c => exact EncodedLength.c ..
  | cr => exact EncodedLength.cr ..
  | caa => exact EncodedLength.caa ..
  | car => exact EncodedLength.car ..
  | re => exact EncodedLength.re
  | lds => exact EncodedLength.lds ..
  | ldw => exact EncodedLength.ldw ..
  | ldt => exact EncodedLength.ldt ..
  | sts => exact EncodedLength.sts ..
  | stw => exact EncodedLength.stw ..
  | stt => exact EncodedLength.stt ..
  | dmt => exact EncodedLength.dmt ..
  | adf => exact EncodedLength.adf ..
  | adfm => exact EncodedLength.adfm ..
  | sbf => exact EncodedLength.sbf ..
  | sbfm => exact EncodedLength.sbfm ..
  | muf => exact EncodedLength.muf ..
  | mufm => exact EncodedLength.mufm ..
  | dvf => exact EncodedLength.dvf ..
  | dvfm => exact EncodedLength.dvfm ..
  | mdf => exact EncodedLength.mdf ..
  | mdfm => exact EncodedLength.mdfm ..
  | cmf => exact EncodedLength.cmf ..
  | cmfm => exact EncodedLength.cmfm ..
  | ngf => exact EncodedLength.ngf ..
  | ngfm => exact EncodedLength.ngfm ..
  | itf => exact EncodedLength.itf ..
  | itfm => exact EncodedLength.itfm ..
  | fti => exact EncodedLength.fti ..
  | ftim => exact EncodedLength.ftim ..
  | ei => exact EncodedLength.ei ..
  | di => exact EncodedLength.di ..
  | ht => exact EncodedLength.ht
  | ir => exact EncodedLength.ir
  | rf => exact EncodedLength.rf ..
  | sf => exact EncodedLength.sf ..
  | smp => exact EncodedLength.smp ..
  | rmp => exact EncodedLength.rmp ..
  | wt => exact EncodedLength.wt
  | dbrk => exact EncodedLength.dbrk

/-- A length is two, three, four or six bytes. -/
theorem lengthOf_cases {p n : Nat} (h : lengthOf p = some n) : n = 2 ∨ n = 3 ∨ n = 4 ∨ n = 6 := by
  simp only [lengthOf] at h
  split_ifs at h <;> cases h <;> decide

/-- Settles O5: the first two bytes select the length, the bytes of that length hold the word of the instruction, and the word
decodes to it. -/
theorem decodeAfterEncode : Obligations.DecodeAfterEncode := by
  intro p i rest wf
  obtain ⟨fits, selects⟩ := encodedLength i
  have len := lengthOf_cases selects
  have two : ¬ (encode p.fetchOrder i ++ rest).length < 2 := by simp [encode]; omega
  have all : ¬ (encode p.fetchOrder i ++ rest).length < i.len := by simp [encode]
  have front : (encode p.fetchOrder i ++ rest).take i.len = encode p.fetchOrder i := List.take_left' (by simp [encode])
  have back : (encode p.fetchOrder i ++ rest).drop i.len = rest := List.drop_left' (by simp [encode])
  have word : wordOfBytes p.fetchOrder (encode p.fetchOrder i) = encodeWord i := wordOfBytes_bytesOfWord _ _ _ fits
  have leading : lengthOf (wordOfBytes p.fetchOrder ((encode p.fetchOrder i ++ rest).take 2)) = some i.len := by
    rw [encode, first_bytesOfWord _ _ _ _ len fits, selects]
  simp only [decode, if_neg two, leading, if_neg all, front, back, word, decodeWord_encodeWord _ _ wf]

/-- Settles O6: the word that decodes is the word of its instruction, so the bytes that hold it are its encoding. -/
theorem decodeOnlyEncodings : Obligations.DecodeOnlyEncodings := by
  intro p bytes rest i h
  unfold decode at h
  split at h
  · cases h
  · split at h
    · cases h
    · next len _ =>
      split at h
      · cases h
      · next enough =>
        split at h
        · cases h
        · next j decoded =>
          cases h
          obtain ⟨wf, length, word⟩ := encodes_of_decodeWord decoded
          have taken : (bytes.take len).length = len := by simp; omega
          have front : encode p.fetchOrder i = bytes.take len := by
            have whole := bytesOfWord_wordOfBytes p.fetchOrder (bytes.take len)
            rw [taken] at whole
            rw [encode, length, word, whole]
          exact ⟨wf, by rw [front, List.take_append_drop]⟩

/-- Settles O7: each list of bytes is the encoding, with nothing after it, of the instruction named. -/
theorem decodeSampleWords : Obligations.DecodeSampleWords := by
  have back (i : Instr) (wf : WellFormed Settings.default.condTable i = true) :=
    decodeAfterEncode Settings.default i [] wf
  exact ⟨back (.ei 1) rfl, back (.adf 1 2 3 true) rfl, back (.bra 0x1000#27) rfl, back (.lds 1 10 1 0 4#27) rfl⟩

end Sys2Proof
end

section
/-! ## What a step may change: the registers alone, memory through checked writes, a taken exception. One relation says what
every instruction but SMP, HT and WT keeps; the invariant, the settings and the machine around an instruction follow from it. -/

namespace Sys2Proof.Machine

open Sys2Proof.Machine.Claim

/-! ### Only the registers and the draw counter change -/

/-- The states agree on all but the registers and the model's draw counter. -/
def RegStep (s t : State) : Prop := t = { s with regs := t.regs, draws := t.draws }

theorem RegStep.refl (s : State) : RegStep s s := rfl

theorem RegStep.trans {s t u : State} (h : RegStep s t) (k : RegStep t u) : RegStep s u := by
  unfold RegStep at *
  rw [k, h]

theorem State.regStep_put (s : State) (r : RegNo) (v : Word) : RegStep s (s.put r v) := rfl
theorem State.regStep_setFlags (s : State) (v : Word) : RegStep s (s.setFlags v) := rfl
theorem State.regStep_jump (s : State) (a : Addr) : RegStep s (s.jump a) := rfl
theorem State.regStep_advance (s : State) (len : Nat) : RegStep s (s.advance len) := rfl
theorem State.regStep_updateFlags (s : State) (u : FlagUpdate) : RegStep s (s.updateFlags u) := rfl
theorem State.regStep_drew (s : State) (k : Nat) : RegStep s (s.drew k) := rfl
theorem State.regStep_restoreFrame (s : State) (l : List Word) : RegStep s (s.restoreFrame l) := by
  simp only [RegStep, State.restoreFrame]

theorem State.regStep_setX (s : State) (r : RegNo) (v : Word) : RegStep s (s.setX r v) := by
  unfold State.setX
  split
  · exact RegStep.refl s
  · exact s.regStep_put r v

theorem State.regStep_setXX (s : State) (r : RegNo) (v : Pair) : RegStep s (s.setXX r v) :=
  (s.regStep_setX _ _).trans (State.regStep_setX _ _ _)

theorem State.regStep_link (s : State) (len : Nat) : RegStep s (s.link len) := s.regStep_setX _ _

theorem State.regStep_lowerST (s : State) : RegStep s s.lowerST := by
  unfold State.lowerST
  split
  · exact RegStep.refl s
  · exact s.regStep_setX _ _

theorem State.regStep_adjustBase (s : State) (z : Size) (rB : RegNo) (n : Fin 32) (m : Fin 4) (t : Word) :
    RegStep s (s.adjustBase z rB n m t) := by
  unfold State.adjustBase
  split
  · exact s.regStep_setX _ _
  · split
    · exact s.regStep_setX _ _
    · exact RegStep.refl s

/-- The flags, the draws and the program counter, written after a result. -/
theorem State.regStep_writeBack (s : State) (u : FlagUpdate) (k len : Nat) :
    RegStep s (((s.updateFlags u).drew k).advance len) := rfl

/-- All but the registers is the same, field by field. -/
theorem RegStep.same {s t : State} (h : RegStep s t) : t.mem = s.mem ∧ t.stored = s.stored ∧ t.prot = s.prot ∧
    t.pending = s.pending ∧ t.runState = s.runState ∧ t.settings = s.settings ∧ t.arrivals = s.arrivals := by
  rw [h]
  exact ⟨rfl, rfl, rfl, rfl, rfl, rfl, rfl⟩

/-- Memory, protections and the machine around the registers read as before. -/
theorem RegStep.sameRest {s t : State} (h : RegStep s t) : SameRest s t := by
  obtain ⟨hmem, hstored, hprot, hpending, hrun, hset, harr⟩ := h.same
  exact ⟨⟨fun a => by rw [hmem], fun a => by rw [hstored]⟩, fun p => by rw [hprot], hpending, hrun, hset, harr⟩

/-! ### What every instruction but SMP, HT and WT keeps -/

/-- Settings, coming events and protections are as before; pending bits are only cleared; a core comes to run or to be
Faulted, and to no other run state; memory stays sound. -/
structure Evolves (s t : State) : Prop where
  settings : t.settings = s.settings
  arrivals : t.arrivals = s.arrivals
  prot : t.prot = s.prot
  pending : ∃ m, t.pending = s.pending &&& m
  runState : t.runState = s.runState ∨ t.runState = .running ∨ t.runState = .faulted
  memOk : s.MemOk → t.MemOk

theorem Evolves.trans {s t u : State} (h : Evolves s t) (k : Evolves t u) : Evolves s u where
  settings := k.settings.trans h.settings
  arrivals := k.arrivals.trans h.arrivals
  prot := k.prot.trans h.prot
  pending := by
    obtain ⟨m, hm⟩ := h.pending
    obtain ⟨n, hn⟩ := k.pending
    exact ⟨m &&& n, by rw [hn, hm, BitVec.and_assoc]⟩
  runState := k.runState.elim (fun e => e ▸ h.runState) .inr
  memOk := k.memOk ∘ h.memOk

theorem MemStep.evolves {s t : State} (h : MemStep s t) : Evolves s t := by
  obtain ⟨-, hprot, hpending, hrun, hset, harr, -⟩ := h.same
  exact ⟨hset, harr, hprot, ⟨BitVec.allOnes 9, hpending.trans BitVec.and_allOnes.symm⟩, .inl hrun, h.2⟩

theorem RegStep.evolves {s t : State} (h : RegStep s t) : Evolves s t := by
  obtain ⟨hmem, hstored, hprot, hpending, hrun, hset, harr⟩ := h.same
  exact ⟨hset, harr, hprot, ⟨BitVec.allOnes 9, hpending.trans BitVec.and_allOnes.symm⟩, .inl hrun,
    by simp only [State.MemOk, hmem, hstored, hset]; exact id⟩

theorem Evolves.refl (s : State) : Evolves s s := (RegStep.refl s).evolves

/-! ### Trap entry -/

theorem State.evolves_becomeFaulted (s : State) : Evolves s s.becomeFaulted :=
  ⟨rfl, rfl, rfl, ⟨BitVec.allOnes 9, BitVec.and_allOnes.symm⟩, .inr (.inr rfl), id⟩

theorem State.evolves_enterHandler (s : State) (n : IntNo) (h : Addr) : Evolves s (s.enterHandler n h) where
  settings := by simp
  arrivals := by simp
  prot := by simp
  pending := by
    rw [State.enterHandler_pending]
    split
    · exact ⟨_, rfl⟩
    · exact ⟨BitVec.allOnes 9, BitVec.and_allOnes.symm⟩
  runState := .inr (.inl rfl)
  memOk := by simp only [State.MemOk, State.enterHandler_mem, State.enterHandler_stored, State.enterHandler_settings]; exact id

/-- Whether a trap entry is delivered or not, it keeps what every instruction keeps. -/
theorem State.evolves_trapEntry (s : State) (n : IntNo) (ret : Addr) : Evolves s (s.trapEntry n ret) := by
  have faulted := s.evolves_becomeFaulted
  unfold State.trapEntry
  split
  · split
    · split
      · exact faulted
      · split
        · next t delivered =>
          have written := s.lowerST.memSteps_writeTris s.entryBase (s.lowerST.frameOf ret)
          rw [delivered] at written
          exact (s.regStep_lowerST.evolves.trans (MemStep.evolves written)).trans (t.evolves_enterHandler n _)
        · exact faulted
    · exact faulted
  · exact faulted

theorem State.evolves_takeException (s : State) (e : Exc) (len : Option Nat) : Evolves s (s.takeException e len) :=
  (s.regStep_drew _).evolves.trans (State.evolves_trapEntry _ _ _)

/-! ### The shared endings of instructions -/

/-- Every next state of the outcome has the property. -/
structure Leads (P : State → Prop) (o : Out) : Prop where
  of_next : ∀ t, o = .next t → P t

theorem leads_next {P : State → Prop} {t : State} (h : P t) : Leads P (.next t) :=
  ⟨by rintro u ⟨⟩; exact h⟩

theorem leads_fault (P : State → Prop) (f : Fault) : Leads P (.fault f) := ⟨by rintro u ⟨⟩⟩

theorem leads_refused (P : State → Prop) (r : Refusal) : Leads P (.refused r) := ⟨by rintro u ⟨⟩⟩

theorem State.leads_raise (s : State) (e : Exc) (len : Option Nat) : Leads (Evolves s) (s.raise e len) :=
  leads_next (s.evolves_takeException e len)

theorem State.leads_writeWord (s : State) (rA : RegNo) (len : Nat) (r : Word) (u : FlagUpdate) (k : Nat) :
    Leads (Evolves s) (s.writeWord rA len r u k) := by
  refine ⟨fun t h => ?_⟩
  obtain ⟨-, rfl⟩ := State.writeWord_next h
  exact ((s.regStep_setX rA r).trans (State.regStep_writeBack _ u k len)).evolves

theorem State.leads_writePair (s : State) (rA : RegNo) (r : Pair) (u : FlagUpdate) (k : Nat) :
    Leads (Evolves s) (s.writePair rA r u k) := by
  refine ⟨fun t h => ?_⟩
  obtain ⟨-, -, rfl⟩ := State.writePair_next h
  exact ((s.regStep_setXX rA r).trans (State.regStep_writeBack _ u k 3)).evolves

theorem State.leads_divideWord (s : State) (op : FlagOp) (rA : RegNo) (uf : Bool) (a b r : Word) :
    Leads (Evolves s) (s.divideWord op rA uf a b r) := by
  unfold State.divideWord
  split
  · exact s.leads_raise _ _
  · exact s.leads_writeWord ..

theorem State.leads_dividePair (s : State) (op : FlagOp) (rA : RegNo) (uf : Bool) (a b r : Pair) :
    Leads (Evolves s) (s.dividePair op rA uf a b r) := by
  unfold State.dividePair
  split
  · exact s.leads_raise _ _
  · exact s.leads_writePair ..

theorem State.leads_floatDivideWord (s : State) (op : FlagOp) (rA : RegNo) (uf : Bool) (a b r : Word) :
    Leads (Evolves s) (s.floatDivideWord op rA uf a b r) := by
  unfold State.floatDivideWord
  split
  · exact s.leads_raise _ _
  · exact s.leads_writeWord ..

theorem State.leads_floatDividePair (s : State) (op : FlagOp) (rA : RegNo) (uf : Bool) (a b r : Pair) :
    Leads (Evolves s) (s.floatDividePair op rA uf a b r) := by
  unfold State.floatDividePair
  split
  · exact s.leads_raise _ _
  · exact s.leads_writePair ..

theorem State.leads_compareTo (s : State) (len : Nat) (u : FlagUpdate) : Leads (Evolves s) (s.compareTo len u) :=
  leads_next ((s.regStep_updateFlags u).trans (State.regStep_advance _ len)).evolves

theorem State.leads_branchIf (s : State) (cond : Fin 16) (len : Nat) (taken : State) (h : RegStep s taken) :
    Leads (Evolves s) (s.branchIf cond len taken) := by
  unfold State.branchIf
  split
  · exact s.leads_raise _ _
  · split
    · exact leads_next h.evolves
    · exact leads_next (s.regStep_advance len).evolves

/-! ### Loads, stores, transfers, the return from an interrupt -/

/-- Every state that a run carries evolved from `s`. -/
def Run.Evolved (s : State) (x : Run) : Prop :=
  match x with
  | .done t => Evolves s t
  | .denied _ _ t => Evolves s t
  | .stopped _ => True
  | .refused _ => True

theorem Run.evolved_of_memSteps {s : State} {x : Run} (h : x.MemSteps s) : x.Evolved s := by
  cases x with
  | done t => exact MemStep.evolves h
  | denied k a t => exact MemStep.evolves h
  | stopped f => trivial
  | refused r => trivial

theorem Run.evolved_of {s t : State} {x : Run} (h : Evolves s t) (hx : x.Evolved t) : x.Evolved s := by
  cases x with
  | done u => exact h.trans hx
  | denied k a u => exact Evolves.trans h hx
  | stopped f => trivial
  | refused r => trivial

theorem State.evolved_loadLoop (z : Size) (n : Nat) (r : RegNo) (a : Addr) (s : State) :
    (State.loadLoop z n r a s).Evolved s := by
  induction n generalizing r a s with
  | zero => exact Evolves.refl s
  | succ n ih =>
    simp only [State.loadLoop]
    split
    · exact Run.evolved_of (s.regStep_setX r _).evolves (ih _ _ _)
    · exact Evolves.refl s
    · trivial
    · trivial

theorem Run.leads_finish {s : State} {x : Run} (len : Nat) {k : State → Out} (hx : x.Evolved s)
    (hk : ∀ t, Leads (Evolves t) (k t)) : Leads (Evolves s) (x.finish len k) := by
  cases x with
  | done t => exact ⟨fun u hu => Evolves.trans hx ((hk t).of_next u hu)⟩
  | denied kind a t => exact ⟨fun u hu => Evolves.trans hx ((t.leads_raise _ _).of_next u hu)⟩
  | stopped f => exact leads_fault _ f
  | refused r => exact leads_refused _ r

theorem State.leads_load (s : State) (z : Size) (rA rB : RegNo) (n : Fin 32) (m : Fin 4) (off : BitVec 27) :
    Leads (Evolves s) (s.load z rA rB n m off) := by
  unfold State.load
  split
  · exact s.leads_raise _ _
  · exact Run.leads_finish 6 (State.evolved_loadLoop ..) fun t =>
      leads_next ((t.regStep_adjustBase z rB n m _).trans (State.regStep_advance _ 6)).evolves

theorem State.leads_store (s : State) (z : Size) (rA rB : RegNo) (n : Fin 32) (m : Fin 4) (off : BitVec 27) :
    Leads (Evolves s) (s.store z rA rB n m off) := by
  unfold State.store
  split
  · exact s.leads_raise _ _
  · refine Run.leads_finish 6 (Run.evolved_of_memSteps (State.memSteps_storeLoop ..)) fun t => ?_
    split
    · exact leads_refused _ _
    · exact leads_next ((t.regStep_adjustBase z rB n m _).trans (State.regStep_advance _ 6)).evolves

theorem leads_execDmt (rA rB rC : RegNo) (s : State) : Leads (Evolves s) (execDmt rA rB rC s) :=
  Run.leads_finish 3 (Run.evolved_of_memSteps (State.memSteps_copyLoop ..)) fun t =>
    leads_next (t.regStep_advance 3).evolves

theorem State.leads_interruptReturn (s : State) : Leads (Evolves s) s.interruptReturn := by
  unfold State.interruptReturn
  cases s.readTris 33 s.returnBase with
  | ok l => exact leads_next (s.regStep_restoreFrame l).evolves
  | denied k a => exact s.leads_raise _ _
  | stopped f => exact leads_fault _ f
  | refused r => exact leads_refused _ r

theorem State.leads_readProtection (s : State) (rA rB : RegNo) : Leads (Evolves s) (s.readProtection rA rB) := by
  simp only [State.readProtection]
  split
  · exact s.leads_writeWord ..
  · exact s.leads_writeWord ..

/-! ### Every instruction -/

/-- Every instruction but SMP, HT and WT evolves the state. -/
theorem exec_evolves (i : Instr) (s : State) (hsmp : ∀ rA rB v, i ≠ .smp rA rB v) (hht : i ≠ .ht) (hwt : i ≠ .wt) :
    Leads (Evolves s) (exec i s) := by
  cases i with
  | ad | adi | adc | adci | sb | sbi | sbc | sbci | mu | mui | mus | muis | an | ani | or | ori | xr | xri | bf | ng
  | nt | sl | sli | sr | sri | sa | sai | rl | rli | rr | rri | mh | ml | ms | ses | sew | zes | zew | rnd | adf | sbf
  | muf | ngf | itf | fti | rf => exact s.leads_writeWord ..
  | adm | adim | adcm | adcim | sbm | sbim | sbcm | sbcim | mum | muim | musm | muism | anm | orm | xrm | bfm | ngm
  | ntm | slm | slim | srm | srim | sam | saim | rlm | rlim | rrm | rrim | rndm | adfm | sbfm | mufm | ngfm | itfm
  | ftim => exact s.leads_writePair ..
  | dv | dvi | dvs | dvis | md | mdi | mds | mdis => exact s.leads_divideWord ..
  | dvm | dvim | dvsm | dvism | mdm | mdim | mdsm | mdism => exact s.leads_dividePair ..
  | dvf | mdf => exact s.leads_floatDivideWord ..
  | dvfm | mdfm => exact s.leads_floatDividePair ..
  | cm | cmi | cmm | cmim | cmf | cmfm => exact s.leads_compareTo ..
  | b | br => exact s.leads_branchIf _ _ _ (s.regStep_jump _)
  | c | cr => exact s.leads_branchIf _ _ _ ((s.regStep_link _).trans (State.regStep_jump _ _))
  | bra | brr | re => exact leads_next (s.regStep_jump _).evolves
  | caa | car => exact leads_next ((s.regStep_link 4).trans (State.regStep_jump _ _)).evolves
  | lds | ldw | ldt => exact s.leads_load ..
  | sts | stw | stt => exact s.leads_store ..
  | dmt rA rB rC => exact leads_execDmt rA rB rC s
  | ei | di | sf => exact leads_next ((s.regStep_setFlags _).trans (State.regStep_advance _ 2)).evolves
  | ir => exact s.leads_interruptReturn
  | rmp rA rB => exact s.leads_readProtection rA rB
  | dbrk => exact s.leads_raise ..
  | smp rA rB v => exact absurd rfl (hsmp rA rB v)
  | ht => exact absurd rfl hht
  | wt => exact absurd rfl hwt

/-- HT changes the registers and the run state. -/
theorem exec_ht_next {s t : State} (h : exec .ht s = .next t) : RegStep { s with runState := .halted } t := by
  cases h
  rfl

/-- WT changes the registers and the run state. -/
theorem exec_wt_next {s t : State} (h : exec .wt s = .next t) : RegStep { s with runState := .waiting } t := by
  cases h
  rfl

/-- Setting pages one by one keeps the canonical form. -/
theorem ProtTable.wf_foldl_withRange (v : Prot) (l : List Nat) {t : ProtTable} (h : t.wf) :
    ProtTable.wf (l.foldl (fun t p => t.withRange (p % pageCount) 1 v) t) := by
  induction l generalizing t with
  | nil => exact h
  | cons p l ih => exact ih (ProtTable.wf_withRange h (Nat.mod_lt p (by decide)) v)

/-- SMP changes the registers and the protection table, whose canonical form it keeps. -/
theorem exec_smp_next {s t : State} {rA rB : RegNo} {v : Prot} (h : exec (.smp rA rB v) s = .next t) :
    ∃ p : ProtTable, (s.prot.wf → p.wf) ∧ RegStep { s with prot := p } t := by
  replace h : s.setProtection rA rB v = .next t := h
  unfold State.setProtection at h
  split at h
  · next valid =>
    cases h
    obtain ⟨-, -, hlast⟩ := of_decide_eq_true valid
    exact ⟨_, fun hp => ProtTable.wf_withRange hp hlast v, rfl⟩
  · split at h
    · cases h
    · cases h
      unfold State.setOutside
      split
      · exact ⟨s.prot, id, ((s.regStep_setX rA _).trans (State.regStep_writeBack _ _ 1 3))⟩
      · exact ⟨_, fun hp => ProtTable.wf_foldl_withRange v _ hp, rfl⟩

/-- What one instruction may do to the machine around the registers. -/
theorem exec_next {i : Instr} {s t : State} (h : exec i s = .next t) :
    Evolves s t ∨ (∃ p : ProtTable, (s.prot.wf → p.wf) ∧ RegStep { s with prot := p } t) ∨
      ∃ r, RegStep { s with runState := r } t := by
  by_cases hsmp : ∃ rA rB v, i = .smp rA rB v
  · obtain ⟨rA, rB, v, rfl⟩ := hsmp
    exact .inr (.inl (exec_smp_next h))
  · by_cases hht : i = .ht
    · subst hht
      exact .inr (.inr ⟨_, exec_ht_next h⟩)
    · by_cases hwt : i = .wt
      · subst hwt
        exact .inr (.inr ⟨_, exec_wt_next h⟩)
      · exact .inl ((exec_evolves i s (fun rA rB v e => hsmp ⟨rA, rB, v, e⟩) hht hwt).of_next t h)

/-! ### Every step -/

theorem State.runBytes_next {s t : State} {len : Nat} {l : List Byte} (h : s.runBytes len l = .next t) :
    Evolves s t ∨ ∃ i, exec i s = .next t := by
  unfold State.runBytes at h
  split at h
  · exact .inr ⟨_, h⟩
  · exact .inl ((s.leads_raise _ _).of_next t h)

theorem State.fetchRest_next {s t : State} {len : Nat} {l : List Byte} (h : s.fetchRest len l = .next t) :
    Evolves s t ∨ ∃ i, exec i s = .next t := by
  unfold State.fetchRest at h
  split at h
  · exact State.runBytes_next h
  · exact .inl ((s.leads_raise _ _).of_next t h)
  · cases h
  · cases h

theorem State.fetchExec_next {s t : State} (h : s.fetchExec = .next t) : Evolves s t ∨ ∃ i, exec i s = .next t := by
  unfold State.fetchExec at h
  split at h
  · split at h
    · exact State.fetchRest_next h
    · exact .inl ((s.leads_raise _ _).of_next t h)
  · exact .inl ((s.leads_raise _ _).of_next t h)
  · cases h
  · cases h

theorem State.stepAt_next {s t : State} (h : s.stepAt = .next t) : Evolves s t ∨ ∃ i, exec i s = .next t := by
  unfold State.stepAt at h
  split at h
  · cases h
    exact .inl (s.evolves_trapEntry _ _)
  · split at h
    · cases h
      exact .inl (Evolves.refl s)
    · exact State.fetchExec_next h

/-- What one step may do: nothing, or, after the boundary's events, a trap entry, a wait or one instruction. -/
theorem step_next {s t : State} (h : step s = .next t) :
    t = s ∨ Evolves s.atBoundary t ∨ ∃ i, exec i s.atBoundary = .next t := by
  unfold step State.stepCore at h
  split at h
  · cases h
  · cases h
    exact .inl rfl
  · exact .inr (State.stepAt_next h)
  · exact .inr (State.stepAt_next h)

/-! ### The invariant -/

theorem State.Inv.memOk {s : State} (h : s.Inv) : s.MemOk := ⟨h.memWf, h.memPlain, h.storedWf⟩

/-- Clearing pending bits makes no synchronous number pending. -/
theorem State.Inv.evolves {s t : State} (h : s.Inv) (e : Evolves s t) : t.Inv := by
  obtain ⟨memWf, memPlain, storedWf⟩ := e.memOk h.memOk
  obtain ⟨m, hm⟩ := e.pending
  refine ⟨memWf, memPlain, storedWf, by rw [e.prot]; exact h.protWf, ?_⟩
  have legal : s.pending &&& ~~~asyncMask = 0#9 := h.pendingLegal
  rw [State.pendingLegal, hm, BitVec.and_assoc, BitVec.and_comm m, ← BitVec.and_assoc, legal, BitVec.zero_and]

theorem State.Inv.regStep {s t : State} (h : s.Inv) (e : RegStep s t) : t.Inv := h.evolves e.evolves

theorem State.Inv.exec {i : Instr} {s t : State} (h : s.Inv) (e : exec i s = .next t) : t.Inv := by
  rcases exec_next e with e | ⟨p, hp, e⟩ | ⟨r, e⟩
  · exact h.evolves e
  · exact State.Inv.regStep (s := { s with prot := p }) ⟨h.memWf, h.memPlain, h.storedWf, hp h.protWf, h.pendingLegal⟩ e
  · exact State.Inv.regStep (s := { s with runState := r }) ⟨h.memWf, h.memPlain, h.storedWf, h.protWf, h.pendingLegal⟩ e

/-- Only asynchronous numbers become pending at a boundary. -/
theorem State.Inv.atBoundary {s : State} (h : s.Inv) : s.atBoundary.Inv := by
  refine ⟨h.memWf, h.memPlain, h.storedWf, h.protWf, ?_⟩
  have legal : s.pending &&& ~~~asyncMask = 0#9 := h.pendingLegal
  change (s.pending ||| (s.arrivals.headD 0#9 &&& asyncMask)) &&& ~~~asyncMask = 0#9
  rw [BitVec.and_comm, BitVec.and_or_distrib_left, BitVec.and_comm _ s.pending, legal, BitVec.and_comm _ asyncMask,
    ← BitVec.and_assoc]
  simp

/-- Settles O3: a step is a rest, a trap entry or one instruction after the boundary's events, and each keeps the
invariant. -/
theorem stepKeepsInvariant : Obligations.StepKeepsInvariant := by
  intro s t inv h
  rcases step_next h with rfl | e | ⟨i, e⟩
  · exact inv
  · exact inv.atBoundary.evolves e
  · exact inv.atBoundary.exec e

/-! ### The settings, and the machine around an instruction -/

theorem exec_settings {i : Instr} {s t : State} (h : exec i s = .next t) : t.settings = s.settings := by
  rcases exec_next h with e | ⟨p, -, e⟩ | ⟨r, e⟩
  · exact e.settings
  · exact e.evolves.settings
  · exact e.evolves.settings

/-- Settles O4: the boundary's events do not touch the settings, and no instruction does. -/
theorem stepKeepsSettings : Obligations.StepKeepsSettings := by
  intro s t h
  rcases step_next h with rfl | e | ⟨i, e⟩
  · rfl
  · exact e.settings
  · exact (exec_settings e).trans rfl

/-- A pending bit that is clear stays clear. -/
theorem Evolves.pending_clear {s t : State} (e : Evolves s t) (m : IntNo) (hm : s.pending.getLsbD m.val = false) :
    t.pending.getLsbD m.val = false := by
  obtain ⟨k, hk⟩ := e.pending
  rw [hk, BitVec.getLsbD_and, hm, Bool.false_and]

theorem RegStep.runState_eq {s t : State} (e : RegStep s t) : t.runState = s.runState := by
  obtain ⟨-, -, -, -, hrun, -, -⟩ := e.same
  exact hrun

/-- An evolved core rests in no run state it was not in. -/
theorem Evolves.runState_resting {s t : State} (e : Evolves s t) {r : RunState} (hr : t.runState = r)
    (running : r ≠ .running) (faulted : r ≠ .faulted) : s.runState = r := by
  rcases e.runState with k | k | k
  · exact k.symm.trans hr
  · exact absurd (hr.symm.trans k) running
  · exact absurd (hr.symm.trans k) faulted

/-- Settles O60: SMP, HT and WT are looked at one by one, every other instruction evolves the state. -/
theorem instructionsKeepMachine : Obligations.InstructionsKeepMachine := by
  intro i s t h
  by_cases hsmp : ∃ rA rB v, i = .smp rA rB v
  · obtain ⟨rA, rB, v, rfl⟩ := hsmp
    obtain ⟨p, -, e⟩ := exec_smp_next h
    exact ⟨fun no => absurd rfl (no rA rB v), e.evolves.settings, e.evolves.arrivals, fun m => e.evolves.pending_clear m,
      fun hr => .inr (e.runState_eq.symm.trans hr), fun hr => .inr (e.runState_eq.symm.trans hr)⟩
  · by_cases hht : i = .ht
    · subst hht
      have e := exec_ht_next h
      refine ⟨fun _ p => by rw [e.evolves.prot], e.evolves.settings, e.evolves.arrivals, fun m => e.evolves.pending_clear m,
        fun _ => .inl rfl, fun hr => ?_⟩
      cases e.runState_eq.symm.trans hr
    · by_cases hwt : i = .wt
      · subst hwt
        have e := exec_wt_next h
        refine ⟨fun _ p => by rw [e.evolves.prot], e.evolves.settings, e.evolves.arrivals, fun m => e.evolves.pending_clear m,
          fun hr => ?_, fun _ => .inl rfl⟩
        cases e.runState_eq.symm.trans hr
      · have e := (exec_evolves i s (fun rA rB v e => hsmp ⟨rA, rB, v, e⟩) hht hwt).of_next t h
        exact ⟨fun _ p => by rw [e.prot], e.settings, e.arrivals, e.pending_clear,
          fun hr => .inr (e.runState_resting hr (by decide) (by decide)),
          fun hr => .inr (e.runState_resting hr (by decide) (by decide))⟩

/-! ### Reset -/

/-- A launch fixes every register but FLAGS and the program counter. -/
theorem State.x_launch (c : Launch) (q : RegNo) : (State.launch c).x q =
    if q = c.settings.specialRegs.pc then c.resetPC else if q = c.settings.specialRegs.fl then 0#27
    else c.registers[q.val] := by
  change ((c.registers.set c.settings.specialRegs.fl.val 0#27).set c.settings.specialRegs.pc.val c.resetPC)[q.val] = _
  rw [Vector.getElem_set, Vector.getElem_set]
  simp only [Fin.val_inj, eq_comm (b := q)]

/-- The empty table is in canonical form. -/
theorem tableWf_nil {V : Type} [DecidableEq V] (u : Option V) (n : Nat) : TableWf u n ([] : List (Nat × V)) :=
  ⟨List.Pairwise.nil, fun _ h => absurd h List.not_mem_nil⟩

/-- Settles O2: reset is a launch of a sound configuration, whose tables are empty. -/
theorem resetHasInvariant : Obligations.ResetHasInvariant := by
  have launched (c : Launch) (h : c.Sound) : (State.launch c).Inv :=
    ⟨h.memWf, h.memPlain, tableWf_nil _ _, h.protWf, by simp [State.pendingLegal, State.launch]⟩
  exact ⟨launched .default ⟨tableWf_nil _ _, fun _ h => absurd h List.not_mem_nil, tableWf_nil _ _⟩, launched⟩

/-- Settles O1: the fields of a launched state are those of its configuration. -/
theorem resetState : Obligations.ResetState := by
  have flags_ne_pc (c : Launch) : c.settings.specialRegs.fl ≠ c.settings.specialRegs.pc :=
    (State.launch c).flagsReg_ne_pcReg
  refine ⟨fun c => ⟨rfl, ?_, ?_, fun q hf hp => ?_, rfl, rfl, rfl, rfl, rfl, rfl⟩, fun v page hpage => ?_,
    ⟨fun q => ?_, rfl, rfl, fun a => rfl, fun p => rfl, rfl, rfl⟩, ?_⟩
  · exact (State.x_launch c _).trans ((if_neg (flags_ne_pc c)).trans (if_pos rfl))
  · exact (State.x_launch c _).trans (if_pos rfl)
  · exact (State.x_launch c q).trans ((if_neg hp).trans (if_neg hf))
  · have inside : 0 ≤ page ∧ page < 0 + pageCount := ⟨Nat.zero_le _, by simpa [pageCount] using hpage⟩
    rw [ProtTable.uniform, ProtTable.ofPage_withRange, if_pos inside]
  · simp [State.reset, State.x_launch, Launch.default]
  · exact ⟨⟨rfl, rfl, rfl, rfl⟩, ⟨rfl, rfl, rfl, rfl⟩, ⟨rfl, rfl, rfl, rfl⟩, ⟨rfl, rfl, rfl, rfl⟩, ⟨rfl, rfl, rfl, rfl⟩,
      ⟨rfl, rfl⟩, by decide, fun _ _ _ _ _ _ => ⟨rfl, rfl, rfl, rfl⟩⟩

end Sys2Proof.Machine
end

section
/-! ## Around an instruction: which interrupt the boundary takes, and what fetching the instruction at the program counter
answers (60_exceptions.md R503 to R508, R511, R513). -/

namespace Sys2Proof.Machine

open Sys2Proof.Machine.Claim

/-! ### The boundary -/

theorem mem_asyncNumbers : ∀ n : IntNo, n ∈ asyncNumbers ↔ isAsync n = true := by decide

/-- An interrupt can be taken when it is ready. -/
theorem canTake_iff (s : State) (n : IntNo) : CanTake s n ↔ s.ready n = true := by
  simp only [CanTake, mem_asyncNumbers, State.ready, Bool.and_eq_true, and_assoc]
  rfl

theorem State.chosen_of_noneTaken {s : State} (h : NoneTaken s) : s.chosen = none :=
  List.find?_eq_none.2 fun m _ => mt (canTake_iff s m).2 (h m)

theorem State.chosen_of_takenAt {s : State} {n : IntNo} (h : TakenAt s n) : s.chosen = some n := by
  obtain ⟨can, before, after, order, none⟩ := h
  refine List.find?_eq_some_iff_append.2 ⟨(canTake_iff s n).1 can, before, after, order, fun m hm => ?_⟩
  simpa using mt (canTake_iff s m).2 (none m hm)

/-- The default order lists the numbers below each number before it, and no others. -/
theorem intPriority_default_split : ∀ n : IntNo,
    IntPriority.default.order = IntPriority.default.order.take n.val ++ n :: IntPriority.default.order.drop (n.val + 1) ∧
      ∀ m ∈ IntPriority.default.order.take n.val, m < n := by decide

theorem takenAt_of_lowest {s : State} {n : IntNo} (hd : s.settings.intPriority = .default) (can : CanTake s n)
    (lowest : ∀ m : IntNo, m < n → ¬ CanTake s m) : TakenAt s n := by
  obtain ⟨split, below⟩ := intPriority_default_split n
  exact ⟨can, _, _, by rw [hd]; exact split, fun m hm => lowest m (below m hm)⟩

theorem step_running {s : State} (h : s.runState = .running) : step s = s.atBoundary.stepAt := by
  simp only [step, State.stepCore, h]

theorem step_waiting {s : State} (h : s.runState = .waiting) : step s = s.atBoundary.stepAt := by
  simp only [step, State.stepCore, h]

theorem State.stepAt_of_chosen {s : State} {n : IntNo} (h : s.chosen = some n) : s.stepAt = .next (s.trapEntry n s.pc) := by
  simp only [State.stepAt, h]

theorem State.stepAt_of_noneTaken {s : State} (h : NoneTaken s) :
    s.stepAt = if s.runState = .waiting then .next s else s.fetchExec := by
  simp only [State.stepAt, State.chosen_of_noneTaken h]

/-- A running core that takes no interrupt fetches and runs an instruction. -/
theorem step_eq_fetchExec {s : State} (run : s.runState = .running) (idle : NoneTaken (afterEvents s)) :
    step s = s.atBoundary.fetchExec := by
  have awake : s.atBoundary.runState ≠ .waiting := by
    change s.runState ≠ .waiting
    rw [run]
    decide
  exact (step_running run).trans ((State.stepAt_of_noneTaken idle).trans (if_neg awake))

/-- Settles O10: the chosen interrupt is the first of the order that is ready. -/
theorem boundaryTakesInterrupt : Obligations.BoundaryTakesInterrupt := by
  intro s n run
  have boundary : step s = s.atBoundary.stepAt := run.elim step_running step_waiting
  have taken (h : TakenAt (afterEvents s) n) : step s = .next ((afterEvents s).trapEntry n s.pc) :=
    boundary.trans (State.stepAt_of_chosen (State.chosen_of_takenAt h))
  exact ⟨taken, fun hd can lowest => taken (takenAt_of_lowest hd can lowest)⟩

/-- Settles O11: the run state decides. -/
theorem restingStates : Obligations.RestingStates := by
  refine ⟨fun s wait idle => ?_, fun s halt => ?_, fun s fault => ?_⟩
  · exact (step_waiting wait).trans ((State.stepAt_of_noneTaken idle).trans (if_pos wait))
  · simp only [step, State.stepCore, halt]
  · simp only [step, State.stepCore, fault]

/-- Settles O15: with a known length no free value is drawn, and the setting says which address is saved. -/
theorem exceptionSavesReturnAddress : Obligations.ExceptionSavesReturnAddress := by
  intro s e len
  have undrawn : s.drew (s.excDraws (some len)) = s := by
    unfold State.excDraws
    split
    · next h => cases h
    · rfl
  rw [State.takeException, undrawn]
  cases e <;> cases h : s.settings.excReturnPC <;> simp only [State.excReturn, h, Exc.number]

/-! ### Fetching -/

/-- The first bytes of a fetchable list are read. -/
theorem readBytes_of_fetchable {s : State} {a : Addr} {l : List Byte} (h : Fetchable s a l) {n : Nat} (hn : n ≤ l.length) :
    s.readBytes .fetch n a = .ok (l.take n) := by
  refine State.readBytes_of_readable (by simpa using hn) fun i hi => ?_
  rw [List.getElem_take]
  exact h i (by simp at hi; omega)

/-- The bytes after the first ones are fetchable behind them. -/
theorem fetchable_drop {s : State} {a : Addr} {l : List Byte} (h : Fetchable s a l) (n : Nat) :
    Fetchable s (a + BitVec.ofNat 27 n) (l.drop n) := by
  intro k hk
  rw [addr_add, List.getElem_drop]
  exact h (n + k) (by simp at hk; omega)

/-- Bytes of the selected length are fetched, and run. -/
theorem State.fetchExec_of_fetchable {s : State} {l : List Byte} (h : Fetchable s s.pc l) (two : 2 ≤ l.length)
    (selects : lengthOf (wordOfBytes s.settings.fetchOrder (l.take 2)) = some l.length) :
    s.fetchExec = s.runBytes l.length l := by
  have rest : s.readBytes .fetch (l.length - 2) (s.pc + 2) = .ok (l.drop 2) := by
    have := readBytes_of_fetchable (fetchable_drop h 2) (Nat.le_refl _)
    rwa [List.take_length, List.length_drop] at this
  simp only [State.fetchExec, readBytes_of_fetchable h two, selects, State.fetchRest, rest, List.take_append_drop]

theorem State.runBytes_ok {s : State} {l rest : List Byte} {i : Instr} (h : decode s.settings l = .ok (i, rest)) (len : Nat) :
    s.runBytes len l = exec i s := by simp only [State.runBytes, h]

theorem State.runBytes_error {s : State} {l : List Byte} {e : DecodeError} (h : decode s.settings l = .error e)
    (len : Nat) : s.runBytes len l = s.raise .invalidInstruction (some len) := by simp only [State.runBytes, h]

/-- First bytes that select no length raise InvalidInstruction. -/
theorem State.fetchExec_noLength {s : State} {l : List Byte} (h : Fetchable s s.pc l) (two : 2 ≤ l.length)
    (selects : lengthOf (wordOfBytes s.settings.fetchOrder (l.take 2)) = none) :
    s.fetchExec = s.raise .invalidInstruction (some 2) := by
  simp only [State.fetchExec, readBytes_of_fetchable h two, selects, undefinedLength]

/-- Settles O8: the bytes that decode are of the length that their first two select, so they are what is fetched. -/
theorem stepRunsDecodedInstruction : Obligations.StepRunsDecodedInstruction := by
  intro s bytes i run idle fetchable decoded
  obtain ⟨-, bytes_eq⟩ := decodeOnlyEncodings s.settings bytes [] i decoded
  rw [List.append_nil] at bytes_eq
  obtain ⟨fits, selects⟩ := encodedLength i
  have length : bytes.length = i.len := by rw [bytes_eq, encode, bytesOfWord_length]
  have len := lengthOf_cases selects
  have leading : lengthOf (wordOfBytes s.settings.fetchOrder (bytes.take 2)) = some bytes.length := by
    have first := first_bytesOfWord s.settings.fetchOrder i.len (encodeWord i) [] len fits
    rw [List.append_nil] at first
    rw [length, bytes_eq, encode, first, selects]
  exact (step_eq_fetchExec run idle).trans
    ((State.fetchExec_of_fetchable fetchable (by omega) leading).trans (State.runBytes_ok (s := afterEvents s) decoded _))

/-- The next byte of an instruction whose length is not yet known or not yet reached cannot be fetched: the read that meets
it ends with that byte's own answer. -/
theorem State.fetch_stops {s : State} {l : List Byte} {n : Nat} (h : Fetchable s s.pc l) (hn : l.length < n)
    (short : n = 2 ∨ 2 ≤ l.length ∧ lengthOf (wordOfBytes s.settings.fetchOrder (l.take 2)) = some n)
    (stop : ∀ b, ¬ s.Readable .fetch (s.pc + BitVec.ofNat 27 l.length) b) :
    let answer := (s.readByte .fetch (s.pc + BitVec.ofNat 27 l.length)).bind fun _ => .ok []
    l.length < 2 ∧ s.readBytes .fetch 2 s.pc = answer ∨
      2 ≤ l.length ∧ s.fetchExec = s.fetchRest n (l.take 2) ∧ s.readBytes .fetch (n - 2) (s.pc + 2) = answer := by
  have before : ∀ i < l.length, ∃ b, s.Readable .fetch (s.pc + BitVec.ofNat 27 i) b := fun i hi => ⟨_, h i hi⟩
  by_cases two : l.length < 2
  · exact .inl ⟨two, State.readBytes_stop two before stop⟩
  · obtain rfl | ⟨two, selects⟩ := short
    · exact absurd hn two
    · have ahead : s.pc + 2 + BitVec.ofNat 27 (l.length - 2) = s.pc + BitVec.ofNat 27 l.length := by
        change s.pc + BitVec.ofNat 27 2 + _ = _
        rw [addr_add, Nat.add_sub_cancel' two]
      refine .inr ⟨two, by simp only [State.fetchExec, readBytes_of_fetchable h two, selects], ?_⟩
      rw [State.readBytes_stop (k := .fetch) (m := l.length - 2) (by omega), ahead]
      · intro i hi
        change ∃ b, s.Readable .fetch (s.pc + BitVec.ofNat 27 2 + _) b
        rw [addr_add]
        exact before (2 + i) (by omega)
      · rwa [ahead]

section
variable {s : State} {l : List Byte} {n : Nat} (h : Fetchable s s.pc l) (hn : l.length < n)
  (short : n = 2 ∨ 2 ≤ l.length ∧ lengthOf (wordOfBytes s.settings.fetchOrder (l.take 2)) = some n)
include h hn short

/-- A byte that may not be fetched raises MemoryException. -/
theorem State.fetchExec_denied (hp : s.plain (s.pc + BitVec.ofNat 27 l.length) = true)
    (hd : s.allows .fetch (s.pc + BitVec.ofNat 27 l.length) = false) :
    s.fetchExec = s.raise (.memoryException .fetch (s.pc + BitVec.ofNat 27 l.length))
      (if l.length < 2 then none else some n) := by
  rcases State.fetch_stops h hn short (fun b hb => by simp [hb.2.1] at hd) with ⟨two, e⟩ | ⟨two, e, rest⟩
  · rw [State.readByte_denied hp hd] at e
    simp only [State.fetchExec, e, Access.bind, if_pos two]
  · rw [State.readByte_denied hp hd] at rest
    rw [e, if_neg (by omega)]
    simp only [State.fetchRest, rest, Access.bind]

/-- A byte whose fetch is refused ends the step with that refusal. -/
theorem State.fetchExec_refused {r : Refusal} (hr : s.readByte .fetch (s.pc + BitVec.ofNat 27 l.length) = .refused r) :
    s.fetchExec = .refused r := by
  rcases State.fetch_stops h hn short (fun b hb => by rw [State.readByte_of_readable hb] at hr; cases hr) with
    ⟨two, e⟩ | ⟨two, e, rest⟩
  · rw [hr] at e
    simp only [State.fetchExec, e, Access.bind]
  · rw [hr] at rest
    rw [e]
    simp only [State.fetchRest, rest, Access.bind]

/-- A byte that has no value ends the step with a model fault. -/
theorem State.fetchExec_stopped {f : Fault} (hf : s.readByte .fetch (s.pc + BitVec.ofNat 27 l.length) = .stopped f) :
    s.fetchExec = .fault f := by
  rcases State.fetch_stops h hn short (fun b hb => by rw [State.readByte_of_readable hb] at hf; cases hf) with
    ⟨two, e⟩ | ⟨two, e, rest⟩
  · rw [hf] at e
    simp only [State.fetchExec, e, Access.bind]
  · rw [hf] at rest
    rw [e]
    simp only [State.fetchRest, rest, Access.bind]

end

/-- Settles O9: whole instructions are fetched and fail to decode; a short one ends with the answer of its next byte. -/
theorem fetchExceptions : Obligations.FetchExceptions := by
  intro s bytes run idle fetchable
  have fetches := step_eq_fetchExec run idle
  refine ⟨fun e two selects undecoded => ?_, fun two selects => ?_, fun n short hp hd => ?_, fun n short hp => ?_,
    fun n short hp hd hs => ?_, fun n short hp hd hs hb => ?_⟩
  · exact fetches.trans
      ((State.fetchExec_of_fetchable fetchable two selects).trans (State.runBytes_error (s := afterEvents s) undecoded _))
  · exact fetches.trans (State.fetchExec_noLength fetchable (by omega) selects)
  · exact fetches.trans (State.fetchExec_denied fetchable short.1 short.2 hp hd)
  · exact fetches.trans (State.fetchExec_refused fetchable short.1 short.2 (State.readByte_region hp))
  · exact fetches.trans (State.fetchExec_refused fetchable short.1 short.2 (State.readByte_stale hp hd hs))
  · exact fetches.trans (State.fetchExec_stopped fetchable short.1 short.2 (State.readByte_unwritten hp hd hs hb))

end Sys2Proof.Machine
end

section
/-! ## Results written back: what each flag update does to each flag, and the registers, FLAGS, program counter and frame
after a word, a pair or flags alone are written. Every arithmetic instruction is one of these endings. -/

namespace Sys2Proof.Machine

open Sys2Proof.Machine.Claim

/-! ### What a flag update does to the four flags -/

/-- Whatever FLAGS was, the update leaves the four status flags as said and every other bit alone. -/
def FlagUpdate.Does (u : FlagUpdate) (p : FlagBits) (z c o sg : FlagIs) : Prop := ∀ f, FlagsAre p f (u.apply p f) z c o sg

theorem FlagUpdate.does_keep (p : FlagBits) : FlagUpdate.keep.Does p .kept .kept .kept .kept :=
  fun _ => ⟨rfl, rfl, rfl, rfl, fun _ _ => rfl⟩

theorem FlagUpdate.does_all (p : FlagBits) (z c o sg : Bool) :
    (FlagUpdate.all z c o sg).Does p (.val z) (.val c) (.val o) (.val sg) := fun f =>
  ⟨FlagUpdate.all_z p z c o sg f, FlagUpdate.all_c p z c o sg f, FlagUpdate.all_o p z c o sg f,
    FlagUpdate.all_s p z c o sg f, FlagUpdate.apply_high p _ f⟩

theorem FlagUpdate.does_zeroSigned (p : FlagBits) (z sg : Bool) :
    (FlagUpdate.zeroSigned z sg).Does p (.val z) .kept .kept (.val sg) := fun f =>
  ⟨FlagUpdate.zeroSigned_z p z sg f, FlagUpdate.zeroSigned_c p z sg f, FlagUpdate.zeroSigned_o p z sg f,
    FlagUpdate.zeroSigned_s p z sg f, FlagUpdate.apply_high p _ f⟩

theorem FlagUpdate.does_zero (p : FlagBits) (z : Bool) : (FlagUpdate.zero z).Does p (.val z) .kept .kept .kept := fun f =>
  ⟨FlagUpdate.zero_z p z f, FlagUpdate.zero_c p z f, FlagUpdate.zero_o p z f, FlagUpdate.zero_s p z f,
    FlagUpdate.apply_high p _ f⟩

/-- Of a flag that is left open nothing is said. -/
theorem FlagUpdate.Does.free {u : FlagUpdate} {p : FlagBits} {z c o sg : FlagIs} (_ : u.Does p z c o sg) :
    u.Does p .free .free .free .free := fun f => ⟨trivial, trivial, trivial, trivial, FlagUpdate.apply_high p u f⟩

/-- An update gated by UF. -/
theorem FlagUpdate.Does.whenUF {u : FlagUpdate} {p : FlagBits} {z c o sg : FlagIs} (h : u.Does p z c o sg) (uf : Bool) :
    (whenUF uf u).Does p (if uf then z else .kept) (if uf then c else .kept) (if uf then o else .kept)
      (if uf then sg else .kept) := by
  cases uf
  · exact FlagUpdate.does_keep p
  · exact h

/-- An update under `NoUFFlagPolicy`. -/
theorem FlagUpdate.Does.noUF {s : State} {u : FlagUpdate} {p : FlagBits} {z c o sg : FlagIs} (h : u.Does p z c o sg) :
    (noUFFlags s.noUF u s.draws).Does p (policy s z) (policy s c) (policy s o) (policy s sg) := by
  unfold policy State.noUF
  cases s.settings.noUFFlagPolicy with
  | always => exact h
  | never => exact FlagUpdate.does_keep p
  | draw => exact (FlagUpdate.does_all p _ _ _ _).free

/-- C and O by `FlagCO`: the function's value, or open where they are drawn. -/
theorem FlagUpdate.does_co (s : State) (op : FlagOp) {n : Nat} (a b r : BitVec n) (p : FlagBits) (z sg : Bool) :
    (FlagUpdate.all z (s.coFlags op a b r).1 (s.coFlags op a b r).2 sg).Does p (.val z)
      (coVal s (Config.flagCO op n a b r).1) (coVal s (Config.flagCO op n a b r).2) (.val sg) := by
  intro f
  obtain ⟨hz, hc, ho, hs, high⟩ := FlagUpdate.does_all p z (s.coFlags op a b r).1 (s.coFlags op a b r).2 sg f
  refine ⟨hz, ?_, ?_, hs, high⟩
  all_goals
    unfold coVal
    unfold State.coFlags coOf at *
    cases hp : s.settings.flagCO with
    | draw => trivial
    | function => rw [hp] at hc ho; assumption

/-! ### Writing back -/

section
variable {s : State} {u : FlagUpdate} {z c o sg : FlagIs} (does : u.Does s.settings.flagBits z c o sg)
include does

/-- A word written to a register other than the program counter, then the flags. -/
theorem State.writeWord_wrote {rA : RegNo} (dest : rA ≠ s.pcReg) (len : Nat) (r : Word) (k : Nat) :
    ∃ t, s.writeWord rA len r u k = .next t ∧ WroteWord s t rA len r z c o sg := by
  have after : ∀ q, q ≠ s.flagsReg → q ≠ s.pcReg →
      ((((s.setX rA r).updateFlags u).drew k).advance len).x q = if q = rA then r else s.x q := fun q hf hp => by
    rw [State.x_writeBack _ _ _ _ _ (by simpa using hf) (by simpa using hp), State.x_setX]
    simp only [dest, ne_eq, not_false_eq_true, and_true]
  refine ⟨_, if_neg dest, fun hf => ?_, fun q hq hf hp => ?_, ?_, ?_, ?_⟩
  · rw [after rA hf dest, if_pos rfl]
  · rw [after q hf hp, if_neg hq]
  · rw [State.advance_flags, State.drew_flags, State.updateFlags_flags, State.setX_settings, State.setX_flags]
    exact does _
  · rw [State.advance_pc, State.drew_pc, State.updateFlags_pc, State.setX_pc]
  · exact ((s.regStep_setX rA r).trans (State.regStep_writeBack _ u k len)).sameRest

/-- A pair written to two registers neither of which is the program counter, then the flags. -/
theorem State.writePair_wrote {rA : RegNo} (dest : PairDest s rA) (r : Pair) (k : Nat) :
    ∃ t, s.writePair rA r u k = .next t ∧ WrotePair s t rA r z c o sg := by
  obtain ⟨high, low⟩ := dest
  have after : ∀ q, q ≠ s.flagsReg → q ≠ s.pcReg → ((((s.setXX rA r).updateFlags u).drew k).advance 3).x q =
      if q = rA + 1 then r.setWidth 27 else if q = rA then r.extractLsb' 27 27 else s.x q := fun q hf hp => by
    rw [State.x_writeBack _ _ _ _ _ (by simpa using hf) (by simpa using hp), State.x_setXX _ _ _ _ high low]
  have lowHalf : r.setWidth 27 = r.extractLsb' 0 27 := BitVec.setWidth_eq_extractLsb' (by decide)
  refine ⟨_, if_neg (not_or.2 ⟨high, low⟩), fun hf => ?_, fun hf => ?_, fun q hq hq' hf hp => ?_, ?_, ?_, ?_⟩
  · rw [after rA hf high, if_neg (regNo_ne_succ rA), if_pos rfl]
  · rw [after (rA + 1) hf low, if_pos rfl, lowHalf]
  · rw [after q hf hp, if_neg hq', if_neg hq]
  · have flags : (s.setXX rA r).flags =
        if rA = s.flagsReg then r.extractLsb' 27 27 else if rA + 1 = s.flagsReg then r.extractLsb' 0 27 else s.flags := by
      rw [State.setXX, State.setX_flags, State.setX_flags, State.setX_flagsReg, lowHalf]
      by_cases hi : rA = s.flagsReg
      · rw [if_pos hi, if_pos hi, if_neg (fun lo => regNo_ne_succ rA (hi.trans lo.symm))]
      · rw [if_neg hi, if_neg hi]
    rw [State.advance_flags, State.drew_flags, State.updateFlags_flags, State.setXX_settings, flags]
    exact does _
  · rw [State.advance_pc, State.drew_pc, State.updateFlags_pc, State.setXX_pc]
  · exact ((s.regStep_setXX rA r).trans (State.regStep_writeBack _ u k 3)).sameRest

end

/-- Flags alone are written: a compare. -/
theorem compared_of_exec {i : Instr} {s : State} {len : Nat} {z c o sg : Bool}
    (runs : exec i s = s.compareTo len (.all z c o sg)) : Compared i s len z c o sg := by
  obtain ⟨hz, hc, ho, hs, high⟩ := FlagUpdate.does_all s.settings.flagBits z c o sg s.flags
  have flags : ((s.updateFlags (.all z c o sg)).advance len).flags = (FlagUpdate.all z c o sg).apply s.settings.flagBits s.flags :=
    (State.advance_flags _ _).trans (State.updateFlags_flags _ _)
  refine ⟨_, runs, ?_, ?_, ?_, ?_, fun j hj => ?_, fun q hf hp => State.x_writeBack s _ 0 len q hf hp, ?_, ?_⟩
  · exact (congrArg (BitVec.getLsbD · _) flags).trans hz
  · exact (congrArg (BitVec.getLsbD · _) flags).trans hc
  · exact (congrArg (BitVec.getLsbD · _) flags).trans ho
  · exact (congrArg (BitVec.getLsbD · _) flags).trans hs
  · rw [flags, high j hj]
  · rw [State.advance_pc, State.updateFlags_pc]
  · exact ((s.regStep_updateFlags _).trans (State.regStep_advance _ _)).sameRest

/-! ### The endings of the arithmetic instructions

Each lemma reads: an instruction whose meaning is this ending completes as the predicate of the statements says. -/

section
variable {i : Instr} {s : State} {rA : RegNo} {uf c : Bool} {op : FlagOp}

theorem resultWord_of_exec {a b r : Word} (dest : rA ≠ s.pcReg) (runs : exec i s = s.resultWord op rA uf a b r) :
    ResultWord i s rA uf op a b r := by
  unfold ResultWord
  rw [runs]
  exact State.writeWord_wrote ((FlagUpdate.does_co s op a b r _ _ _).whenUF uf) dest 3 r _

theorem resultPair_of_exec {a b r : Pair} (dest : PairDest s rA) (runs : exec i s = s.resultPair op rA uf a b r) :
    ResultPair i s rA uf op a b r := by
  unfold ResultPair
  rw [runs]
  exact State.writePair_wrote ((FlagUpdate.does_co s op a b r _ _ _).whenUF uf) dest r _

theorem floatWord_of_exec {a b r : Word} (dest : rA ≠ s.pcReg) (runs : exec i s = s.floatWord op rA uf a b r) :
    FloatWord i s rA uf op a b r := by
  unfold FloatWord
  rw [runs]
  exact State.writeWord_wrote ((FlagUpdate.does_co s op a b r _ _ _).whenUF uf) dest 3 r _

theorem floatPair_of_exec {a b r : Pair} (dest : PairDest s rA) (runs : exec i s = s.floatPair op rA uf a b r) :
    FloatPair i s rA uf op a b r := by
  unfold FloatPair
  rw [runs]
  exact State.writePair_wrote ((FlagUpdate.does_co s op a b r _ _ _).whenUF uf) dest r _

/-- A result of an instruction with no UF field, Z and S being `z` and `sg`. -/
theorem policyWord_of_exec {a b r : Word} {z sg : Bool} (dest : rA ≠ s.pcReg)
    (runs : exec i s = s.noUFWord rA r (.all z (s.coFlags op a b r).1 (s.coFlags op a b r).2 sg)) :
    PolicyWord i s rA op a b r z sg := by
  unfold PolicyWord
  rw [runs]
  exact State.writeWord_wrote (FlagUpdate.does_co s op a b r _ _ _).noUF dest 3 r _

theorem policyPair_of_exec {a b r : Pair} {z sg : Bool} (dest : PairDest s rA)
    (runs : exec i s = s.noUFPair rA r (.all z (s.coFlags op a b r).1 (s.coFlags op a b r).2 sg)) :
    PolicyPair i s rA op a b r z sg := by
  unfold PolicyPair
  rw [runs]
  exact State.writePair_wrote (FlagUpdate.does_co s op a b r _ _ _).noUF dest r _

/-- The flags of a sum, in exact numbers. -/
theorem addFlags_eq {n : Nat} (hn : 0 < n) (a b : BitVec n) (c : Bool) :
    addFlags a b c = .all (BitVec.ofNat n (a.toNat + b.toNat + c.toNat) == 0#n) (decide (2 ^ n ≤ a.toNat + b.toNat + c.toNat))
      (a.msb == b.msb && (BitVec.ofNat n (a.toNat + b.toNat + c.toNat)).msb != a.msb)
      (BitVec.ofNat n (a.toNat + b.toNat + c.toNat)).msb := by
  simp only [addFlags, addResult_eq, addWide_carry hn]

theorem addedWord_of_exec {a b : Word} (dest : rA ≠ s.pcReg) (runs : exec i s = s.addWord rA uf a b c) :
    AddedWord i s rA uf a b c := by
  unfold AddedWord
  rw [runs, State.addWord, addResult_eq, addFlags_eq (by decide)]
  exact State.writeWord_wrote ((FlagUpdate.does_all _ _ _ _ _).whenUF uf) dest 3 _ _

theorem addedPair_of_exec {a b : Pair} (dest : PairDest s rA) (runs : exec i s = s.addPair rA uf a b c) :
    AddedPair i s rA uf a b c := by
  unfold AddedPair
  rw [runs, State.addPair, addResult_eq, addFlags_eq (by decide)]
  exact State.writePair_wrote ((FlagUpdate.does_all _ _ _ _ _).whenUF uf) dest _ _

theorem subOverflowFlag_eq (p : SubOverflow) (a b r : Bool) : subOverflowFlag p a b r = overflowOf p a b r := rfl

/-- The flags of a difference, in exact numbers. -/
theorem subFlags_eq {n : Nat} (hn : 0 < n) (p : SubOverflow) (a b : BitVec n) (c : Bool) :
    subFlags p a b c = .all (BitVec.ofInt n ((a.toNat : Int) - b.toNat - c.toNat) == 0#n)
      (decide (a.toNat < b.toNat + c.toNat))
      (overflowOf p a.msb b.msb (BitVec.ofInt n ((a.toNat : Int) - b.toNat - c.toNat)).msb)
      (BitVec.ofInt n ((a.toNat : Int) - b.toNat - c.toNat)).msb := by
  simp only [subFlags, subWide_sign hn, subWide_borrow hn, subResult_eq, subOverflowFlag_eq]

theorem subtractedWord_of_exec {a b : Word} (dest : rA ≠ s.pcReg) (runs : exec i s = s.subWord rA uf a b c) :
    SubtractedWord i s rA uf a b c := by
  unfold SubtractedWord
  rw [runs, State.subWord, subResult_eq, subFlags_eq (by decide)]
  exact State.writeWord_wrote ((FlagUpdate.does_all _ _ _ _ _).whenUF uf) dest 3 _ _

theorem subtractedPair_of_exec {a b : Pair} (dest : PairDest s rA) (runs : exec i s = s.subPair rA uf a b c) :
    SubtractedPair i s rA uf a b c := by
  unfold SubtractedPair
  rw [runs, State.subPair, subResult_eq, subFlags_eq (by decide)]
  exact State.writePair_wrote ((FlagUpdate.does_all _ _ _ _ _).whenUF uf) dest _ _

/-- A quotient or remainder by a divisor that is not zero is a result. -/
theorem divideWord_of_exec {a b r : Word} (dest : rA ≠ s.pcReg) (nonzero : b ≠ 0#27)
    (runs : exec i s = s.divideWord op rA uf a b r) : ResultWord i s rA uf op a b r :=
  resultWord_of_exec dest (runs.trans (if_neg nonzero))

theorem dividePair_of_exec {a b r : Pair} (dest : PairDest s rA) (nonzero : b ≠ 0#54)
    (runs : exec i s = s.dividePair op rA uf a b r) : ResultPair i s rA uf op a b r :=
  resultPair_of_exec dest (runs.trans (if_neg nonzero))

end

end Sys2Proof.Machine
end

section
/-! ## Integer arithmetic: the operand values of each instruction in exact numbers, and the statements about add, subtract,
multiply, divide, logic, shifts, rotates, moves and random values. -/

namespace Sys2Proof.Machine

open Sys2Proof.Machine.Claim

/-! ### Values in exact numbers -/

theorem mulLow_zext {m n : Nat} (h : m ≤ n) (a : BitVec n) (i : BitVec m) :
    mulLow a (zext n i) = BitVec.ofNat n (a.toNat * i.toNat) := by rw [mulLow, zext_toNat h]

theorem mulSigned_sext {m n : Nat} (h : m ≤ n) (a : BitVec n) (i : BitVec m) :
    mulSigned a (sext n i) = BitVec.ofInt n (a.toInt * i.toInt) := by rw [mulSigned, sext_toInt h]

theorem divUnsigned_zext {m n : Nat} (h : m ≤ n) (a : BitVec n) (i : BitVec m) :
    divUnsigned a (zext n i) = BitVec.ofNat n (a.toNat / i.toNat) := by rw [divUnsigned, zext_toNat h]

theorem modUnsigned_zext {m n : Nat} (h : m ≤ n) (a : BitVec n) (i : BitVec m) :
    modUnsigned a (zext n i) = BitVec.ofNat n (a.toNat % i.toNat) := by rw [modUnsigned, zext_toNat h]

/-- The division that does not fit is that of the most negative value by -1. -/
theorem divOverflows_iff {n : Nat} (hn : 1 < n) (a b : BitVec n) :
    divOverflows a b = true ↔ a.toInt = -2 ^ (n - 1) ∧ b.toInt = -1 := by
  have least : (BitVec.intMin n).toInt = -2 ^ (n - 1) := by
    rw [BitVec.toInt_intMin, Nat.mod_eq_of_lt (Nat.pow_lt_pow_right (by decide) (by omega))]
    push_cast
    rfl
  have minusOne : (-1 : BitVec n).toInt = -1 := by
    change (-1#n).toInt = -1
    rw [BitVec.neg_one_eq_allOnes, BitVec.toInt_allOnes, if_pos (by omega)]
  rw [divOverflows, Bool.and_eq_true, beq_iff_eq, beq_iff_eq, ← BitVec.toInt_inj, ← BitVec.toInt_inj, least, minusOne]

theorem divSigned_eq_fits {n : Nat} (hn : 1 < n) (ov a b : BitVec n) :
    divSigned ov a b = fits ov a.toInt b.toInt (a.toInt.tdiv b.toInt) := if_congr (divOverflows_iff hn a b) rfl rfl

theorem modSigned_eq_fits {n : Nat} (hn : 1 < n) (ov a b : BitVec n) :
    modSigned ov a b = fits ov a.toInt b.toInt (a.toInt.tmod b.toInt) := by
  rw [← sub_tdiv_mul_eq_tmod]
  exact if_congr (divOverflows_iff hn a b) rfl rfl

theorem divSigned_sext {m n : Nat} (h : m ≤ n) (hn : 1 < n) (ov a : BitVec n) (i : BitVec m) :
    divSigned ov a (sext n i) = fits ov a.toInt i.toInt (a.toInt.tdiv i.toInt) := by rw [divSigned_eq_fits hn, sext_toInt h]

theorem modSigned_sext {m n : Nat} (h : m ≤ n) (hn : 1 < n) (ov a : BitVec n) (i : BitVec m) :
    modSigned ov a (sext n i) = fits ov a.toInt i.toInt (a.toInt.tmod i.toInt) := by rw [modSigned_eq_fits hn, sext_toInt h]

/-- An immediate of m bits sees only the low m bits of the other operand. -/
theorem and_zext {m n : Nat} (h : m ≤ n) (a : BitVec n) (i : BitVec m) :
    a &&& zext n i = BitVec.ofNat n (a.toNat % 2 ^ m &&& i.toNat) := by
  have low : a.toNat % 2 ^ m &&& i.toNat = a.toNat &&& i.toNat := by
    conv_rhs => rw [← Nat.mod_eq_of_lt i.isLt]
    conv_lhs => rw [← Nat.mod_eq_of_lt i.isLt, ← Nat.and_mod_two_pow]
    rw [Nat.mod_eq_of_lt i.isLt]
    exact Nat.mod_eq_of_lt (Nat.and_lt_two_pow _ i.isLt)
  apply BitVec.eq_of_toNat_eq
  rw [BitVec.toNat_and, zext_toNat h, BitVec.toNat_ofNat, low,
    Nat.mod_eq_of_lt (Nat.and_lt_two_pow _ (i.isLt.trans_le (Nat.pow_le_pow_right (by decide) h)))]

theorem eq_ofNat_of_toNat_eq {n k : Nat} {a : BitVec n} (h : a.toNat = k) : a = BitVec.ofNat n k := by
  rw [← h, BitVec.ofNat_toNat, BitVec.setWidth_eq]

theorem or_zext {m n : Nat} (h : m ≤ n) (a : BitVec n) (i : BitVec m) :
    a ||| zext n i = BitVec.ofNat n (a.toNat ||| i.toNat) :=
  eq_ofNat_of_toNat_eq (by rw [BitVec.toNat_or, zext_toNat h])

theorem xor_zext {m n : Nat} (h : m ≤ n) (a : BitVec n) (i : BitVec m) :
    a ^^^ zext n i = BitVec.ofNat n (a.toNat ^^^ i.toNat) :=
  eq_ofNat_of_toNat_eq (by rw [BitVec.toNat_xor, zext_toNat h])

theorem not_eq_ofNat {n : Nat} (a : BitVec n) : ~~~a = BitVec.ofNat n (2 ^ n - 1 - a.toNat) :=
  eq_ofNat_of_toNat_eq BitVec.toNat_not

theorem neg_eq_ofNat {n : Nat} (a : BitVec n) : -a = BitVec.ofNat n (2 ^ n - a.toNat) := by
  apply BitVec.eq_of_toNat_eq
  rw [BitVec.toNat_neg, BitVec.toNat_ofNat]

theorem logicalNot_eq {n : Nat} (a : BitVec n) : logicalNot a = if a.toNat = 0 then 1#n else 0#n :=
  if_congr (BitVec.toNat_inj (y := 0#n)).symm rfl rfl

/-! ### Shifts and rotates -/

/-- A shift of fewer than n places, or under the mathematical setting; what the function of `ShiftOver` gives for the rest. -/
theorem shiftBy_eq_shiftIs (s : State) {op : ShiftOp} {n : Nat} (a : BitVec n) (k : Nat)
    (beyond : shiftIsOver op n k = decide (n ≤ k)) :
    shiftBy s.settings.shiftOver op a k = shiftIs s op a k (shiftMath op a k) := by
  unfold shiftBy shiftIs
  cases s.settings.shiftOver with
  | mathematical => simp
  | function => simp [beyond]

/-- The same for rotates, of which n places still rotate. -/
theorem rotateIs_shiftBy (s : State) {op : ShiftOp} {n : Nat} (a : BitVec n) (k : Nat) {P : BitVec n → Prop}
    (beyond : shiftIsOver op n k = decide (n < k)) (rotates : P (shiftMath op a k)) :
    RotateIs s op a k (shiftBy s.settings.shiftOver op a k) (P (shiftBy s.settings.shiftOver op a k)) := by
  unfold RotateIs shiftBy
  cases s.settings.shiftOver with
  | mathematical => simpa using rotates
  | function =>
    by_cases far : n < k
    · simp [beyond, far]
    · simpa [beyond, far] using rotates

/-! ### The statements -/

section
variable {i : Instr} {s : State} {rA : RegNo} {uf : Bool}

theorem shiftWord_of_exec {op : ShiftOp} {a : Word} {k : Nat} (dest : rA ≠ s.pcReg)
    (beyond : shiftIsOver op 27 k = decide (27 ≤ k)) (runs : exec i s = s.shiftWord op rA uf a k) :
    ResultWord i s rA uf (shiftFlagOp op) a (BitVec.ofNat 27 k) (shiftIs s op a k (shiftMath op a k)) := by
  rw [← shiftBy_eq_shiftIs s a k beyond]
  exact resultWord_of_exec dest runs

theorem shiftPair_of_exec {op : ShiftOp} {a : Pair} {k : Nat} (dest : PairDest s rA)
    (beyond : shiftIsOver op 54 k = decide (54 ≤ k)) (runs : exec i s = s.shiftPair op rA uf a k) :
    ResultPair i s rA uf (shiftFlagOp op) a (BitVec.ofNat 54 k) (shiftIs s op a k (shiftMath op a k)) := by
  rw [← shiftBy_eq_shiftIs s a k beyond]
  exact resultPair_of_exec dest runs

theorem rotateWord_of_exec (op : ShiftOp) {a : Word} {k : Nat} {P : Word → Prop} (dest : rA ≠ s.pcReg)
    (beyond : shiftIsOver op 27 k = decide (27 < k)) (rotates : P (shiftMath op a k))
    (runs : exec i s = s.shiftWord op rA uf a k) :
    ∃ r, ResultWord i s rA uf (shiftFlagOp op) a (BitVec.ofNat 27 k) r ∧ RotateIs s op a k r (P r) :=
  ⟨_, resultWord_of_exec dest runs, rotateIs_shiftBy s a k beyond rotates⟩

theorem rotatePair_of_exec (op : ShiftOp) {a : Pair} {k : Nat} {P : Pair → Prop} (dest : PairDest s rA)
    (beyond : shiftIsOver op 54 k = decide (54 < k)) (rotates : P (shiftMath op a k))
    (runs : exec i s = s.shiftPair op rA uf a k) :
    ∃ r, ResultPair i s rA uf (shiftFlagOp op) a (BitVec.ofNat 54 k) r ∧ RotateIs s op a k r (P r) :=
  ⟨_, resultPair_of_exec dest runs, rotateIs_shiftBy s a k beyond rotates⟩

end

/-- Settles O17: each form is the sum of its operands, the immediate zero-extended. -/
theorem addWords : Obligations.AddWords := by
  intro rA rB rC imm uf s dest
  rw [← zext_eq]
  exact ⟨addedWord_of_exec dest rfl, addedWord_of_exec dest rfl, addedWord_of_exec dest rfl, addedWord_of_exec dest rfl⟩

/-- Settles O18: the same on pairs. -/
theorem addPairs : Obligations.AddPairs := by
  intro rA rB rC imm uf s dest
  rw [← zext_eq]
  exact ⟨addedPair_of_exec dest rfl, addedPair_of_exec dest rfl, addedPair_of_exec dest rfl, addedPair_of_exec dest rfl⟩

/-- Settles O19: each form is the difference of its operands, the immediate zero-extended. -/
theorem subtractWords : Obligations.SubtractWords := by
  intro rA rB rC imm uf s dest
  rw [← zext_eq]
  exact ⟨subtractedWord_of_exec dest rfl, subtractedWord_of_exec dest rfl, subtractedWord_of_exec dest rfl,
    subtractedWord_of_exec dest rfl⟩

/-- Settles O20: the same on pairs. -/
theorem subtractPairs : Obligations.SubtractPairs := by
  intro rA rB rC imm uf s dest
  rw [← zext_eq]
  exact ⟨subtractedPair_of_exec dest rfl, subtractedPair_of_exec dest rfl, subtractedPair_of_exec dest rfl,
    subtractedPair_of_exec dest rfl⟩

/-- Settles O21: each result is the low half of the exact product, in the reading of the form. -/
theorem multiplyWords : Obligations.MultiplyWords := by
  intro rA rB rC imm uf s dest
  rw [← zext_eq, ← sext_eq, ← mulLow_zext (by decide), ← mulSigned_sext (by decide) _ imm]
  exact ⟨resultWord_of_exec dest rfl, resultWord_of_exec dest rfl, resultWord_of_exec dest rfl, resultWord_of_exec dest rfl⟩

/-- Settles O22: the same on pairs. -/
theorem multiplyPairs : Obligations.MultiplyPairs := by
  intro rA rB rC imm uf s dest
  rw [← zext_eq, ← sext_eq, ← mulLow_zext (by decide), ← mulSigned_sext (by decide) _ imm]
  exact ⟨resultPair_of_exec dest rfl, resultPair_of_exec dest rfl, resultPair_of_exec dest rfl, resultPair_of_exec dest rfl⟩

/-- Settles O23: no divisor is zero, so each form completes with its quotient or remainder. -/
theorem divideWordsUnsigned : Obligations.DivideWordsUnsigned := by
  intro rA rB rC imm uf s dest hC himm
  have hi := zext_ne_zero (n := 27) (by decide) imm himm
  rw [← zext_eq, ← divUnsigned_zext (by decide), ← modUnsigned_zext (by decide)]
  exact ⟨divideWord_of_exec dest hC rfl, divideWord_of_exec dest hi rfl, divideWord_of_exec dest hC rfl,
    divideWord_of_exec dest hi rfl⟩

/-- Settles O24: the same on pairs. -/
theorem dividePairsUnsigned : Obligations.DividePairsUnsigned := by
  intro rA rB rC imm uf s dest hC himm
  have hi := zext_ne_zero (n := 54) (by decide) imm himm
  rw [← zext_eq, ← divUnsigned_zext (by decide), ← modUnsigned_zext (by decide)]
  exact ⟨dividePair_of_exec dest hC rfl, dividePair_of_exec dest hi rfl, dividePair_of_exec dest hC rfl,
    dividePair_of_exec dest hi rfl⟩

/-- Settles O25: no divisor is zero; the one quotient that does not fit is what `DivOverflow` says on both sides. -/
theorem divideWordsSigned : Obligations.DivideWordsSigned := by
  intro rA rB rC imm uf s dest hC himm
  have hi := sext_ne_zero (n := 27) (by decide) imm himm
  rw [← sext_eq, ← divSigned_sext (by decide) (by decide) _ _ imm, ← modSigned_sext (by decide) (by decide) _ _ imm,
    ← divSigned_eq_fits (by decide), ← modSigned_eq_fits (by decide)]
  exact ⟨divideWord_of_exec dest hC rfl, divideWord_of_exec dest hi rfl, divideWord_of_exec dest hC rfl,
    divideWord_of_exec dest hi rfl⟩

/-- Settles O26: the same on pairs. -/
theorem dividePairsSigned : Obligations.DividePairsSigned := by
  intro rA rB rC imm uf s dest hC himm
  have hi := sext_ne_zero (n := 54) (by decide) imm himm
  rw [← sext_eq, ← divSigned_sext (by decide) (by decide) _ _ imm, ← modSigned_sext (by decide) (by decide) _ _ imm,
    ← divSigned_eq_fits (by decide), ← modSigned_eq_fits (by decide)]
  exact ⟨dividePair_of_exec dest hC rfl, dividePair_of_exec dest hi rfl, dividePair_of_exec dest hC rfl,
    dividePair_of_exec dest hi rfl⟩

/-- Settles O28: each value in exact numbers is the model's bitwise one. -/
theorem logicWords : Obligations.LogicWords := by
  intro rA rB rC imm uf s dest
  rw [← zext_eq, ← and_zext (by decide), ← or_zext (by decide), ← xor_zext (by decide), ← not_eq_ofNat, ← neg_eq_ofNat,
    ← logicalNot_eq]
  exact ⟨resultWord_of_exec dest rfl, resultWord_of_exec dest rfl, resultWord_of_exec dest rfl, resultWord_of_exec dest rfl,
    resultWord_of_exec dest rfl, resultWord_of_exec dest rfl, resultWord_of_exec dest rfl, resultWord_of_exec dest rfl,
    resultWord_of_exec dest rfl⟩

/-- Settles O29: the same on pairs. -/
theorem logicPairs : Obligations.LogicPairs := by
  intro rA rB rC uf s dest
  rw [← not_eq_ofNat, ← neg_eq_ofNat, ← logicalNot_eq]
  exact ⟨resultPair_of_exec dest rfl, resultPair_of_exec dest rfl, resultPair_of_exec dest rfl, resultPair_of_exec dest rfl,
    resultPair_of_exec dest rfl, resultPair_of_exec dest rfl⟩

/-- Settles O30: a shift multiplies or divides by a power of two. -/
theorem shiftWords : Obligations.ShiftWords := by
  intro rA rB rC imm uf s dest a n
  simp only [← shiftLeft_eq, ← shiftRight_eq, ← shiftArith_eq]
  exact ⟨shiftWord_of_exec dest rfl rfl, shiftWord_of_exec dest rfl rfl, shiftWord_of_exec dest rfl rfl,
    shiftWord_of_exec dest rfl rfl, shiftWord_of_exec dest rfl rfl, shiftWord_of_exec dest rfl rfl⟩

/-- Settles O31: the same on pairs. -/
theorem shiftPairs : Obligations.ShiftPairs := by
  intro rA rB rC imm uf s dest a n
  simp only [← shiftLeft_eq, ← shiftRight_eq, ← shiftArith_eq]
  exact ⟨shiftPair_of_exec dest rfl rfl, shiftPair_of_exec dest rfl rfl, shiftPair_of_exec dest rfl rfl,
    shiftPair_of_exec dest rfl rfl, shiftPair_of_exec dest rfl rfl, shiftPair_of_exec dest rfl rfl⟩

/-- Settles O32: a rotate moves each bit to its place modulo 27. -/
theorem rotateWords : Obligations.RotateWords := by
  intro rA rB rC imm uf s dest a n
  have left : ∀ k, ∀ i < 27, (rotLeft a k).getLsbD ((i + k) % 27) = a.getLsbD i := rotLeft_bit (by decide) a
  have right : ∀ k, ∀ i < 27, (rotRight a k).getLsbD i = a.getLsbD ((i + k) % 27) := rotRight_bit (by decide) a
  exact ⟨rotateWord_of_exec .rotateLeft dest rfl (left n) rfl, rotateWord_of_exec .rotateLeft dest rfl (left _) rfl,
    rotateWord_of_exec .rotateRight dest rfl (right n) rfl, rotateWord_of_exec .rotateRight dest rfl (right _) rfl⟩

/-- Settles O33: the same modulo 54. -/
theorem rotatePairs : Obligations.RotatePairs := by
  intro rA rB rC imm uf s dest a n
  have left : ∀ k, ∀ i < 54, (rotLeft a k).getLsbD ((i + k) % 54) = a.getLsbD i := rotLeft_bit (by decide) a
  have right : ∀ k, ∀ i < 54, (rotRight a k).getLsbD i = a.getLsbD ((i + k) % 54) := rotRight_bit (by decide) a
  exact ⟨rotatePair_of_exec .rotateLeft dest rfl (left n) rfl, rotatePair_of_exec .rotateLeft dest rfl (left _) rfl,
    rotatePair_of_exec .rotateRight dest rfl (right n) rfl, rotatePair_of_exec .rotateRight dest rfl (right _) rfl⟩

/-! ### Moves, extends, random -/

theorem moveWord_of_exec {i : Instr} {s : State} {rA : RegNo} {op : FlagOp} {a b r : Word} (dest : rA ≠ s.pcReg)
    (runs : exec i s = s.moveWord op rA a b r) : PolicyWord i s rA op a b r (r == 0#27) r.msb :=
  policyWord_of_exec dest runs

theorem movePair_of_exec {i : Instr} {s : State} {rA : RegNo} {op : FlagOp} {a b r : Pair} (dest : PairDest s rA)
    (runs : exec i s = s.movePair op rA a b r) : PolicyPair i s rA op a b r (r == 0#54) r.msb :=
  policyPair_of_exec dest runs

theorem zext_low_eq_mod (a : Word) (k : Nat) : zext 27 (BitVec.ofNat k a.toNat) = BitVec.ofNat 27 (a.toNat % 2 ^ k) := by
  rw [zext_eq, BitVec.toNat_ofNat]

/-- MH puts 17 bits above the low 10. -/
theorem append_low_eq (imm : BitVec 17) (a : Word) :
    imm ++ BitVec.ofNat 10 a.toNat = BitVec.ofNat 27 (imm.toNat * 2 ^ 10 + a.toNat % 2 ^ 10) :=
  eq_ofNat_of_toNat_eq (by rw [toNat_append_eq_add, BitVec.toNat_ofNat])

/-- Settles O34: each value in exact numbers is the one the model writes. -/
theorem movesAndExtends : Obligations.MovesAndExtends := by
  intro rA rB imm s dest wrote
  simp only [← append_low_eq, ← zext_low_eq_mod, ← zext_eq, ← sext_eq]
  exact ⟨moveWord_of_exec dest rfl, moveWord_of_exec dest rfl, moveWord_of_exec dest rfl, moveWord_of_exec dest rfl,
    moveWord_of_exec dest rfl, moveWord_of_exec dest rfl, moveWord_of_exec dest rfl⟩

/-- Settles O35: the drawn value is written back as a result. -/
theorem randomCompletes : Obligations.RandomCompletes := by
  intro rA uf s dest
  have flags {n : Nat} (r : BitVec n) :=
    (FlagUpdate.does_co s .random 0#n 0#n r s.settings.flagBits (r == 0#n) r.msb).whenUF uf
  exact ⟨⟨_, State.writeWord_wrote (flags (Config.draw27 s.draws)) dest 3 _ 1⟩,
    fun low => ⟨_, State.writePair_wrote (flags (Config.draw54 s.draws)) ⟨dest, low⟩ _ 1⟩⟩

end Sys2Proof.Machine
end

section
/-! ## Floating point, and what is refused or raised whatever the operands: results of `FloatOps`, zero divisors, and
destinations of the program counter. -/

namespace Sys2Proof.Machine

open Sys2Proof.Machine.Claim

/-- Settles O52: each form writes the `FloatOps` function of its operands back. -/
theorem floatArithmetic : Obligations.FloatArithmetic := fun _ _ _ _ _ dest =>
  ⟨floatWord_of_exec dest rfl, floatWord_of_exec dest rfl, floatWord_of_exec dest rfl, fun low =>
    have pair := ⟨dest, low⟩
    ⟨floatPair_of_exec pair rfl, floatPair_of_exec pair rfl, floatPair_of_exec pair rfl⟩⟩

/-- Settles O53: `fdivfault` decides between the exception and the result. -/
theorem floatDivision : Obligations.FloatDivision := by
  intro rA rB rC uf s dest
  refine ⟨?_, fun low => ?_⟩
  · split
    · next faults => exact ⟨if_pos faults, if_pos faults⟩
    · next sound => exact ⟨floatWord_of_exec dest (if_neg sound), floatWord_of_exec dest (if_neg sound)⟩
  · have pair : PairDest s rA := ⟨dest, low⟩
    split
    · next faults => exact ⟨if_pos faults, if_pos faults⟩
    · next sound => exact ⟨floatPair_of_exec pair (if_neg sound), floatPair_of_exec pair (if_neg sound)⟩

/-- Settles O54: a compare writes flags only, a negation Z and S with its result, a conversion its result by
`NoUFFlagPolicy`. -/
theorem floatCompareNegateConvert : Obligations.FloatCompareNegateConvert := by
  intro rA rB uf s
  have negates (z sg : Bool) := (FlagUpdate.does_zeroSigned s.settings.flagBits z sg).whenUF uf
  have kept : (if uf then FlagIs.kept else .kept) = .kept := ite_self _
  simp only [kept] at negates
  exact ⟨compared_of_exec rfl, compared_of_exec rfl,
    fun dest => ⟨State.writeWord_wrote (negates _ _) dest 3 _ 0, policyWord_of_exec dest rfl, moveWord_of_exec dest rfl⟩,
    fun dest => ⟨State.writePair_wrote (negates _ _) dest _ 0, policyPair_of_exec dest rfl, movePair_of_exec dest rfl⟩⟩

/-! ### Divisors and destinations -/

theorem State.divideWord_of_zero {s : State} {b : Word} (zero : b = 0#27) (op : FlagOp) (rA : RegNo) (uf : Bool) (a r : Word) :
    s.divideWord op rA uf a b r = s.raise .divideByZero (some 3) := if_pos zero

theorem State.dividePair_of_zero {s : State} {b : Pair} (zero : b = 0#54) (op : FlagOp) (rA : RegNo) (uf : Bool) (a r : Pair) :
    s.dividePair op rA uf a b r = s.raise .divideByZero (some 3) := if_pos zero

/-- Settles O27: a zero divisor, in a register or an immediate extended, is asked for before anything is written. -/
theorem zeroDivisorRaises : Obligations.ZeroDivisorRaises := by
  intro rA rB rC uf s
  have words {b : Word} (zero : b = 0#27) (op : FlagOp) := State.divideWord_of_zero (s := s) zero op rA uf (s.x rB)
  have pairs {b : Pair} (zero : b = 0#54) (op : FlagOp) := State.dividePair_of_zero (s := s) zero op rA uf (s.xx rB)
  generalize isZero : 0#7 = imm
  have zext27 : zext 27 imm = 0#27 := by rw [← isZero]; rfl
  have sext27 : sext 27 imm = 0#27 := by rw [← isZero]; rfl
  have zext54 : zext 54 imm = 0#54 := by rw [← isZero]; rfl
  have sext54 : sext 54 imm = 0#54 := by rw [← isZero]; rfl
  exact ⟨fun zero => ⟨words zero _ _, words zero _ _, words zero _ _, words zero _ _⟩,
    fun zero => ⟨pairs zero _ _, pairs zero _ _, pairs zero _ _, pairs zero _ _⟩,
    words zext27 _ _, words sext27 _ _, words zext27 _ _, words sext27 _ _,
    pairs zext54 _ _, pairs sext54 _ _, pairs zext54 _ _, pairs sext54 _ _⟩

theorem State.writeWord_pcReg (s : State) (len : Nat) (r : Word) (u : FlagUpdate) (k : Nat) :
    s.writeWord s.pcReg len r u k = .refused .writeToR31 := if_pos rfl

theorem State.writePair_pcReg {s : State} {rA : RegNo} (at_pc : rA = s.pcReg ∨ rA + 1 = s.pcReg) (r : Pair) (u : FlagUpdate)
    (k : Nat) : s.writePair rA r u k = .refused .writeToR31 := if_pos at_pc

section
variable {s : State} (op : FlagOp) (uf : Bool)

theorem State.divideWord_pcReg {b : Word} (nonzero : b ≠ 0#27) (a r : Word) :
    s.divideWord op s.pcReg uf a b r = .refused .writeToR31 := (if_neg nonzero).trans (s.writeWord_pcReg _ _ _ _)

theorem State.dividePair_pcReg {rA : RegNo} (at_pc : rA = s.pcReg ∨ rA + 1 = s.pcReg) {b : Pair} (nonzero : b ≠ 0#54)
    (a r : Pair) : s.dividePair op rA uf a b r = .refused .writeToR31 :=
  (if_neg nonzero).trans (State.writePair_pcReg at_pc _ _ _)

theorem State.floatDivideWord_pcReg {a b : Word} (sound : ¬ Config.fdivfault 27 a b = true) (r : Word) :
    s.floatDivideWord op s.pcReg uf a b r = .refused .writeToR31 := (if_neg sound).trans (s.writeWord_pcReg _ _ _ _)

theorem State.floatDividePair_pcReg {rA : RegNo} (at_pc : rA = s.pcReg ∨ rA + 1 = s.pcReg) {a b : Pair}
    (sound : ¬ Config.fdivfault 54 a b = true) (r : Pair) :
    s.floatDividePair op rA uf a b r = .refused .writeToR31 := (if_neg sound).trans (State.writePair_pcReg at_pc _ _ _)

end

/-- Settles O16: every form with a destination ends in a word or a pair written back, the divisions after their divisor is
found sound. -/
theorem programCounterDestinationRefused : Obligations.ProgramCounterDestinationRefused := by
  intro rB rC imm imm17 uf s p no
  refine ⟨?words, ?moves, fun rA at_pc => ?pairs, fun nonzero => ?quotients, fun nonzero => ?quotientsImm, ?floatQuotients⟩
  case words => and_intros <;> exact s.writeWord_pcReg _ _ _ _
  case moves => and_intros <;> exact s.writeWord_pcReg _ _ _ _
  case quotients => and_intros <;> exact State.divideWord_pcReg _ uf nonzero _ _
  case quotientsImm =>
    have unsigned := zext_ne_zero (n := 27) (by decide) imm nonzero
    have signed := sext_ne_zero (n := 27) (by decide) imm nonzero
    exact ⟨State.divideWord_pcReg _ uf unsigned _ _, State.divideWord_pcReg _ uf signed _ _,
      State.divideWord_pcReg _ uf unsigned _ _, State.divideWord_pcReg _ uf signed _ _⟩
  case floatQuotients =>
    split
    · next faults => exact ⟨if_pos faults, if_pos faults⟩
    · next sound => exact ⟨State.floatDivideWord_pcReg _ uf sound _, State.floatDivideWord_pcReg _ uf sound _⟩
  case pairs =>
    and_intros
    iterate 35 exact State.writePair_pcReg at_pc _ _ _
    · intro nonzero
      and_intros <;> exact State.dividePair_pcReg _ uf at_pc nonzero _ _
    · intro nonzero
      have unsigned := zext_ne_zero (n := 54) (by decide) imm nonzero
      have signed := sext_ne_zero (n := 54) (by decide) imm nonzero
      exact ⟨State.dividePair_pcReg _ uf at_pc unsigned _ _, State.dividePair_pcReg _ uf at_pc signed _ _,
        State.dividePair_pcReg _ uf at_pc unsigned _ _, State.dividePair_pcReg _ uf at_pc signed _ _⟩
    · split
      · next faults => exact ⟨if_pos faults, if_pos faults⟩
      · next sound =>
        exact ⟨State.floatDividePair_pcReg _ uf at_pc sound _, State.floatDividePair_pcReg _ uf at_pc sound _⟩

end Sys2Proof.Machine
end

section
/-! ## Compares, conditional transfers, calls, and the system instructions that move FLAGS or rest the core. -/

namespace Sys2Proof.Machine

open Sys2Proof.Machine.Claim

/-! ### Compares (45_compare.md R320) -/

/-- The flags of a compare, from the exact difference in one bit more than the operands have. -/
theorem compareFlags_eq {n : Nat} (p : SubOverflow) (a b : BitVec n) :
    let t := BitVec.ofInt (n + 1) ((a.toNat : Int) - b.toNat)
    compareFlags p a b = .all (t == 0#(n + 1)) (t.getLsbD n)
      (overflowOf p (a.getLsbD (n - 1)) (b.getLsbD (n - 1)) (t.getLsbD (n - 1))) (t.getLsbD (n - 1)) := by
  have exact_difference : subWide a b false = BitVec.ofInt (n + 1) ((a.toNat : Int) - b.toNat) := by
    rw [subWide_eq, Bool.toNat_false, Int.ofNat_zero, Int.sub_zero]
  simp only [compareFlags, subOverflowFlag_eq, BitVec.msb_eq_getLsbD_last, exact_difference]

theorem compared_of_flags {i : Instr} {s : State} {len n : Nat} {a b : BitVec n}
    (runs : exec i s = s.compareTo len (compareFlags s.subOverflow a b)) :
    let t := BitVec.ofInt (n + 1) ((a.toNat : Int) - b.toNat)
    Compared i s len (t == 0#(n + 1)) (t.getLsbD n)
      (overflowOf s.settings.subOverflow (a.getLsbD (n - 1)) (b.getLsbD (n - 1)) (t.getLsbD (n - 1))) (t.getLsbD (n - 1)) :=
  compared_of_exec (runs.trans (congrArg _ (compareFlags_eq ..)))

/-- Settles O36: the words are those that the encoder gives, and the flags those of the wide difference. -/
theorem compareWords : Obligations.CompareWords := by
  intro rA rB imm s a compared
  refine ⟨decodeWord_encodeWord _ (.cm rA rB) rfl, decodeWord_encodeWord _ (.cmi rA imm) rfl, compared_of_flags rfl, ?_⟩
  rw [← sext_eq]
  exact compared_of_flags rfl

/-- Settles O37: the same on pairs. -/
theorem comparePairs : Obligations.ComparePairs := by
  intro rA rB imm s a compared
  refine ⟨decodeWord_encodeWord _ (.cmm rA rB) rfl, decodeWord_encodeWord _ (.cmim rA imm) rfl, compared_of_flags rfl, ?_⟩
  rw [← sext_eq]
  exact compared_of_flags rfl

/-! ### Conditions (46_branch_call.md R330) -/

/-- The evaluator of a condition row decides what the row means. -/
theorem evalTest_iff (t : FlagTest) (z c o sg : Bool) : evalTest t z c o sg = true ↔ TestHolds t z c o sg := by
  induction t with
  | always => simp [evalTest, TestHolds]
  | z | c | o | s => exact Iff.rfl
  | not t ih => simp [evalTest, TestHolds, ← ih]
  | and t u iht ihu => simp [evalTest, TestHolds, ← iht, ← ihu]
  | or t u iht ihu => simp [evalTest, TestHolds, ← iht, ← ihu]
  | xor t u iht ihu => rw [TestHolds, ← iht, ← ihu, ← Bool.eq_iff_iff, evalTest, bne_iff_ne]

theorem State.branchIf_takes {s : State} {cond : Fin 16} (takes : Takes s cond) (len : Nat) (u : State) :
    s.branchIf cond len u = .next u := by
  obtain ⟨t, row, holds⟩ := takes
  have passes : s.passes t = true := (evalTest_iff ..).2 holds
  simp only [State.branchIf, State.condRow, row, passes, if_true]

theorem State.branchIf_passes {s : State} {cond : Fin 16} (passes : Passes s cond) (len : Nat) (u : State) :
    s.branchIf cond len u = .next (s.advance len) := by
  obtain ⟨t, row, fails⟩ := passes
  have falls : ¬ s.passes t = true := fun holds => fails ((evalTest_iff ..).1 holds)
  simp only [State.branchIf, State.condRow, row, if_neg falls]

theorem State.branchIf_none {s : State} {cond : Fin 16} (row : s.settings.condTable[cond.val] = none) (len : Nat)
    (u : State) : s.branchIf cond len u = s.raise .invalidInstruction (some len) := by
  simp only [State.branchIf, State.condRow, row]

/-- An instruction whose effect is to write RA and jump. -/
theorem calledTo_of_exec {i : Instr} {s : State} {len : Nat} {a : Addr} (runs : exec i s = .next ((s.link len).jump a)) :
    CalledTo i s len a := by
  have ra : (s.link len).x s.raReg = s.pc + BitVec.ofNat 27 len := s.x_setX_same _ _ s.raReg_ne_pcReg
  refine ⟨_, runs, State.jump_pc _ _, ?_, fun q hra hpc => ?_, ((s.regStep_link len).trans (State.regStep_jump _ a)).sameRest⟩
  · rw [State.x_jump, State.link_pcReg, if_neg s.raReg_ne_pcReg, ra]
  · rw [State.x_jump, State.link_pcReg, if_neg hpc]
    exact s.x_setX_ne _ _ _ hra

/-- CR reads its register after RA is written. -/
theorem State.x_link (s : State) (len : Nat) (q : RegNo) :
    (s.link len).x q = if q = s.raReg then s.pc + BitVec.ofNat 27 len else s.x q := by
  simp only [State.link, State.x_setX, ne_eq, State.raReg_ne_pcReg, not_false_eq_true, and_true]

/-- Settles O38: the row decides between the transfer, the next instruction and the exception. -/
theorem conditionalTransfers : Obligations.ConditionalTransfers := by
  intro cond offset rA s
  rw [← sext_eq]
  refine ⟨fun takes => ?_, fun passes => ?_, fun row => ?_⟩
  · have register := s.x_link 2 rA
    rw [← register]
    exact ⟨jumpedTo_of_exec_eq_jump (State.branchIf_takes takes 3 _), jumpedTo_of_exec_eq_jump (State.branchIf_takes takes 2 _),
      calledTo_of_exec (State.branchIf_takes takes 3 _), calledTo_of_exec (State.branchIf_takes takes 2 _)⟩
  · exact ⟨jumpedTo_of_exec_eq_jump (State.branchIf_passes passes 3 _),
      jumpedTo_of_exec_eq_jump (State.branchIf_passes passes 2 _), jumpedTo_of_exec_eq_jump (State.branchIf_passes passes 3 _),
      jumpedTo_of_exec_eq_jump (State.branchIf_passes passes 2 _)⟩
  · exact ⟨State.branchIf_none row 3 _, State.branchIf_none row 3 _, State.branchIf_none row 2 _,
      State.branchIf_none row 2 _⟩

/-- Settles O41: the calls are a write of RA and a jump, RE is a jump. -/
theorem callsAndReturn : Obligations.CallsAndReturn := fun _ _ =>
  ⟨calledTo_of_exec rfl, calledTo_of_exec rfl, jumpedTo_of_exec_eq_jump rfl⟩

theorem exec_loadOf (z : Size) (rA rB : RegNo) (count : Fin 32) (mode : Fin 4) (offset : BitVec 27) (s : State) :
    exec (loadOf z rA rB count mode offset) s = s.load z rA rB count mode offset := by
  cases z <;> rfl

theorem exec_storeOf (z : Size) (rA rB : RegNo) (count : Fin 32) (mode : Fin 4) (offset : BitVec 27) (s : State) :
    exec (storeOf z rA rB count mode offset) s = s.store z rA rB count mode offset := by
  cases z <;> rfl

/-- Settles O42: 1110 has no row in the default table, and Adjust rB 3 is asked for before any access. -/
theorem reservedFieldsRaise : Obligations.ReservedFieldsRaise := by
  intro rA rB off17 count off27 z s
  refine ⟨fun table => ?_, ?_, ?_⟩
  · have row : s.settings.condTable[(14 : Fin 16).val] = none := by rw [table]; rfl
    exact ⟨State.branchIf_none row 3 _, State.branchIf_none row 2 _, State.branchIf_none row 3 _,
      State.branchIf_none row 2 _⟩
  · exact (exec_loadOf ..).trans (if_pos rfl)
  · exact (exec_storeOf ..).trans (if_pos rfl)

/-! ### What the conditions mean after a compare -/

/-- A row of the default table says when its Condition value is taken. -/
theorem takes_default_iff {s : State} (table : s.settings.condTable = .default) (cond : Fin 16) (t : FlagTest)
    (row : CondTable.default[cond.val] = some t) : Takes s cond ↔ TestHolds t (zOf s) (cOf s) (oOf s) (sOf s) := by
  rw [← table] at row
  simp only [Takes, row, Option.some.injEq, exists_eq_left']

/-- Every value but 1110 has a row in the default table. -/
theorem condTable_default_isSome : ∀ cond : Fin 16, cond ≠ 14 → CondTable.default[cond.val].isSome = true := by decide

/-- A value with a row is passed when it is not taken. -/
theorem passes_default_iff {s : State} (table : s.settings.condTable = .default) (cond : Fin 16) (valid : cond ≠ 14) :
    Passes s cond ↔ ¬ Takes s cond := by
  obtain ⟨t, row⟩ := Option.isSome_iff_exists.1 (condTable_default_isSome cond valid)
  rw [takes_default_iff table cond t row]
  rw [← table] at row
  simp only [Passes, row, Option.some.injEq, exists_eq_left']

section
variable (a b : Word)

/-- The 28-bit difference is zero only for equal operands. -/
theorem difference_eq_zero_iff : (BitVec.ofInt 28 ((a.toNat : Int) - b.toNat) == 0#28) = true ↔ a.toNat = b.toNat := by
  have value : (BitVec.ofInt 28 ((a.toNat : Int) - b.toNat)).toInt = (a.toNat : Int) - b.toNat :=
    BitVec.toInt_ofInt_eq_self (by decide) (by omega) (by omega)
  rw [beq_iff_eq, ← BitVec.toInt_inj, value, BitVec.toInt_zero]
  omega

/-- Its top bit is the borrow. -/
theorem difference_borrow_iff : (BitVec.ofInt 28 ((a.toNat : Int) - b.toNat)).getLsbD 27 = true ↔ a.toNat < b.toNat := by
  have borrow := subWide_borrow (by decide) a b false
  rw [subWide_eq, Bool.toNat_false, Int.ofNat_zero, Int.sub_zero] at borrow
  rw [borrow, decide_eq_true_eq, Nat.add_zero]

/-- The bit below is the sign of the 27-bit difference. -/
theorem difference_sign : (BitVec.ofInt 28 ((a.toNat : Int) - b.toNat)).getLsbD 26 = (a - b).msb := by
  have sign := subWide_sign (by decide) a b false
  rw [subResult_eq, subWide_eq, Bool.toNat_false, Int.ofNat_zero, Int.sub_zero] at sign
  have wraps : BitVec.ofInt 27 ((a.toNat : Int) - b.toNat) = a - b := by
    apply BitVec.eq_of_toNat_eq
    rw [BitVec.toNat_ofInt, BitVec.toNat_sub]
    omega
  rw [sign, wraps]

/-- The sign of a difference differs from the standard overflow exactly when the first operand is less, as signed numbers. -/
theorem sign_ne_overflow_iff : ¬ ((a - b).msb = true ↔ overflowOf .standard a.msb b.msb (a - b).msb = true) ↔ a.toInt < b.toInt := by
  simp only [overflowOf, BitVec.msb_eq_decide, BitVec.toInt_eq_toNat_cond, BitVec.toNat_sub]
  have ha := a.isLt
  have hb := b.isLt
  simp
  omega

/-- The printed overflow differs from the sign of the difference exactly when the first operand is negative. -/
theorem sign_ne_printed_iff : ¬ ((a - b).msb = true ↔ overflowOf .source a.msb b.msb (a - b).msb = true) ↔ a.toInt < 0 := by
  have negative : a.msb = true ↔ a.toInt < 0 := by rw [BitVec.msb_eq_toInt, decide_eq_true_eq]
  rw [overflowOf, ← negative, ← Bool.eq_iff_iff]
  cases (a - b).msb <;> cases a.msb <;> simp

end

/-- The four flags after CM, as comparisons of the operands. -/
theorem cm_flags (rA rB : RegNo) (s : State) : ∃ t, exec (.cm rA rB) s = .next t ∧ t.settings = s.settings ∧
    (zOf t = true ↔ (s.x rA).toNat = (s.x rB).toNat) ∧ (cOf t = true ↔ (s.x rA).toNat < (s.x rB).toNat) ∧
    (sOf t = true ↔ (s.x rA - s.x rB).msb = true) ∧
    (oOf t = true ↔ overflowOf s.settings.subOverflow (s.x rA).msb (s.x rB).msb (s.x rA - s.x rB).msb = true) := by
  obtain ⟨-, -, ⟨t, runs, hz, hc, ho, hs, -, -, -, -, -, -, -, settings, -⟩, -⟩ := compareWords rA rB 0#14 s
  refine ⟨t, runs, settings, ?_, ?_, ?_, ?_⟩
  · rw [hz, difference_eq_zero_iff]
  · rw [hc, difference_borrow_iff]
  · rw [hs, difference_sign]
  · rw [ho, difference_sign, (s.x rA).msb_eq_getLsbD_last, (s.x rB).msb_eq_getLsbD_last]

/-- Settles O39: the rows are read off the table; after CM the flags are comparisons of the operands. -/
theorem conditionsAfterCompare : Obligations.ConditionsAfterCompare := by
  intro rA rB s table
  have row := takes_default_iff table
  refine ⟨⟨row 0 (.not .z) rfl, row 1 .z rfl, row 2 (.and .c (.not .z)) rfl, row 3 (.or .c .z) rfl,
    row 4 (.and (.not .c) (.not .z)) rfl, row 5 (.or (.not .c) .z) rfl, row 6 (.not .o) rfl, row 7 .o rfl,
    row 8 (.not .s) rfl, row 9 .s rfl, row 10 (.xor .s .o) rfl, row 11 (.or (.xor .s .o) .z) rfl, ?_, ?_,
    (row 15 .always rfl).2 trivial, ?_, passes_default_iff table⟩, ?_⟩
  · simpa only [TestHolds, not_not] using row 12 (.and (.not (.xor .s .o)) (.not .z)) rfl
  · simpa only [TestHolds, not_not] using row 13 (.not (.xor .s .o)) rfl
  · rw [table]
    rfl
  · obtain ⟨t, runs, settings, hz, hc, hs, ho⟩ := cm_flags rA rB s
    have after := takes_default_iff (s := t) (by rw [settings, table])
    have equal : (s.x rA).toInt = (s.x rB).toInt ↔ (s.x rA).toNat = (s.x rB).toNat := by
      rw [BitVec.toInt_inj, BitVec.toNat_inj]
    refine ⟨t, runs, ⟨?_, ?_, ?_, ?_, ?_, ?_, (after 15 .always rfl).2 trivial⟩, ?_⟩
    · rw [after 0 (.not .z) rfl, TestHolds, TestHolds, hz]
    · rw [after 1 .z rfl, TestHolds, hz]
    · rw [after 2 (.and .c (.not .z)) rfl]
      simp only [TestHolds, hz, hc]
      omega
    · rw [after 3 (.or .c .z) rfl]
      simp only [TestHolds, hz, hc]
      omega
    · rw [after 4 (.and (.not .c) (.not .z)) rfl]
      simp only [TestHolds, hz, hc]
      omega
    · rw [after 5 (.or (.not .c) .z) rfl]
      simp only [TestHolds, hz, hc]
      omega
    · have less := after 10 (.xor .s .o) rfl
      have lessEqual := after 11 (.or (.xor .s .o) .z) rfl
      have greater := after 12 (.and (.not (.xor .s .o)) (.not .z)) rfl
      have greaterEqual := after 13 (.not (.xor .s .o)) rfl
      simp only [TestHolds, hz, hs, ho, ← equal] at less lessEqual greater greaterEqual
      cases policy : s.settings.subOverflow with
      | standard =>
        simp only [policy, sign_ne_overflow_iff] at less lessEqual greater greaterEqual
        refine ⟨less, lessEqual.trans ?_, greater.trans ?_, greaterEqual.trans ?_⟩ <;> omega
      | source =>
        simp only [policy, sign_ne_printed_iff] at less lessEqual greater greaterEqual
        refine ⟨less, lessEqual, greater.trans ?_, greaterEqual.trans ?_⟩ <;> omega

/-! ### FLAGS moved, the core at rest -/

/-- An update that writes no flag changes no register. -/
theorem State.x_updateFlags_keep (s : State) (q : RegNo) : (s.updateFlags .keep).x q = s.x q := by
  rw [State.x_updateFlags, FlagUpdate.apply_keep]
  split
  · next e => rw [e, State.x_flagsReg]
  · rfl

/-- Settles O56: RF and SF share format R1; SF writes FLAGS whole, RF writes it back to its register with no flag changed. -/
theorem flagTransfers : Obligations.FlagTransfers := by
  intro rA s
  have whole : s.x rA &&& 0x7FFFFFF#27 = s.x rA := BitVec.and_allOnes
  refine ⟨?_, ?_, ?_, ?_, ?_, fun dest => ?_, s.writeWord_pcReg _ _ _ _⟩
  · exact (decodeWord_sf _ (packR1_top 2571 rA)).trans (decodeR1_packR1 2571 rA .sf)
  · exact (decodeWord_rf _ (packR1_top 2572 rA)).trans (decodeR1_packR1 2572 rA .rf)
  · exact (decodeWord_sf _ (packR1_succ_top 2571 rA)).trans (decodeR1_packR1_succ 2571 rA .sf)
  · exact (decodeWord_rf _ (packR1_succ_top 2572 rA)).trans (decodeR1_packR1_succ 2572 rA .rf)
  · refine ⟨_, rfl, ?_, fun q => s.x_setFlags_advance _ 2, ?_, s.setFlags_advance_sameRest _ 2⟩
    · rw [State.advance_flags, State.setFlags_flags, whole]
    · rw [State.advance_pc, State.setFlags_pc]
  · have registers (q : RegNo) (hq : q ≠ s.pcReg) : ((((s.setX rA s.flags).updateFlags .keep).drew 0).advance 2).x q =
        if q = rA then s.flags else s.x q := by
      rw [State.x_advance, if_neg (by simpa using hq), State.x_drew, State.x_updateFlags_keep, State.x_setX]
      simp only [ne_eq, dest, not_false_eq_true, and_true]
    refine ⟨_, if_neg dest, ?_, fun q hq hp => ?_, ?_, ?_⟩
    · rw [registers rA dest, if_pos rfl]
    · rw [registers q hp, if_neg hq]
    · rw [State.advance_pc, State.drew_pc, State.updateFlags_pc, State.setX_pc]
    · exact ((s.regStep_setX rA _).trans (State.regStep_writeBack _ .keep 0 2)).sameRest

/-- A bit of FLAGS that is no enable is kept when the enables are cleared. -/
theorem and_enableKeep_getLsbD (f : Word) {j : Nat} (hj : j < 27) :
    (f &&& enableKeep).getLsbD j = if 4 ≤ j ∧ j ≤ 12 then false else f.getLsbD j := by
  rw [enableKeep_eq_not, BitVec.getLsbD_and, BitVec.getLsbD_not, enableBits_getLsbD j hj]
  by_cases enable : 4 ≤ j ∧ j ≤ 12
  · simp [enable]
  · simp [enable, hj]

/-- Settles O57: HT writes FLAGS and the run state, WT the program counter and the run state, DBRK raises. -/
theorem haltWaitBreak : Obligations.HaltWaitBreak := by
  intro s
  obtain ⟨sameMemory, sameProtection, samePending, -, sameSettings, sameArrivals⟩ :=
    (s.regStep_setFlags (s.flags &&& enableKeep)).sameRest
  obtain ⟨sameMemory', sameProtection', samePending', -, sameSettings', sameArrivals'⟩ := (s.regStep_advance 2).sameRest
  refine ⟨⟨_, rfl, rfl, s.setFlags_pc _, fun j hj => ?_, fun q hf hp => ?_, sameMemory, sameProtection, samePending,
    sameSettings, sameArrivals⟩, ⟨_, rfl, rfl, s.advance_pc 2, fun q hp => ?_, sameMemory', sameProtection', samePending',
    sameSettings', sameArrivals'⟩, rfl⟩
  · exact (congrArg (BitVec.getLsbD · j) (s.setFlags_flags _)).trans (and_enableKeep_getLsbD _ hj)
  · exact (s.x_setFlags _ q).trans (if_neg hf)
  · exact (s.x_advance 2 q).trans (if_neg hp)

end Sys2Proof.Machine
end

section
/-! ## Page protection and the address map: which accesses a page allows, what an address is, which fetches are stale. -/

namespace Sys2Proof.Machine

open Sys2Proof.Machine.Claim

/-- What a page of protection `v` allows under the default values. -/
theorem State.allows_default {s : State} {a : Addr} {v : Prot} (perm : s.settings.perm = .default)
    (page : s.prot.ofPage (a.toNat / 1024) = v) (k : AccessKind) : s.allows k a = permAllows .default v k := by
  rw [State.allows, perm, State.protAt, pageOf, page]

/-! ### The first range that holds an address -/

theorem regionOf_nil (a : Addr) : regionOf [] a = .unmapped := rfl

theorem regionOf_cons (r : MapRange) (m : MemMap) (a : Addr) :
    regionOf (r :: m) a = if r.first ≤ a.toNat ∧ a.toNat ≤ r.last then r.region else regionOf m a := by
  unfold regionOf
  by_cases holds : r.first ≤ a.toNat ∧ a.toNat ≤ r.last
  · rw [List.find?_cons_of_pos (by simpa using holds), if_pos holds]
  · rw [List.find?_cons_of_neg (by simpa using holds), if_neg holds]

/-- Ranges that do not hold the address are passed over. -/
theorem regionOf_append {before : MemMap} {a : Addr} (miss : ∀ q ∈ before, a.toNat < q.first ∨ q.last < a.toNat)
    (m : MemMap) : regionOf (before ++ m) a = regionOf m a := by
  induction before with
  | nil => rfl
  | cons q before ih =>
    have outside := miss q List.mem_cons_self
    rw [List.cons_append, regionOf_cons, if_neg (by omega), ih fun p hp => miss p (List.mem_cons_of_mem q hp)]

theorem isPlain_iff (m : MemMap) (a : Addr) : isPlain m a = true ↔ regionOf m a = .memory ∨ regionOf m a = .pointerTable := by
  rw [isPlain, Bool.or_eq_true, beq_iff_eq, beq_iff_eq]

/-- The refusal that belongs to a region. -/
def refusalIn (a : Addr) (r : Region) : Refusal := if r = .unmapped then .unmappedAccess a else .deviceAccess r a

theorem State.regionRefusal_eq (s : State) (a : Addr) : s.regionRefusal a = refusalIn a (regionOf s.settings.memMap a) := rfl

/-- The default map, range by range. -/
theorem regionOf_default (a : Addr) :
    regionOf .default a =
      if a.toNat ≤ 0x3FFFFFF then .memory
      else if 0x4000000 ≤ a.toNat ∧ a.toNat ≤ 0x400001E then .clock
      else if 0x4010000 ≤ a.toNat ∧ a.toNat ≤ 0x4011FFF then .flagIO
      else if 0x5000000 ≤ a.toNat ∧ a.toNat ≤ 0x5001FFF then .dataReceived
      else if 0x5002000 ≤ a.toNat ∧ a.toNat ≤ 0x5002002 then .dataReceivedSize
      else if 0x5010000 ≤ a.toNat ∧ a.toNat ≤ 0x5011FFF then .dataSent
      else if 0x5012000 ≤ a.toNat ∧ a.toNat ≤ 0x5012002 then .dataSentSize
      else if 0x6000000 ≤ a.toNat ∧ a.toNat ≤ 0x67FFFFF then .sharedMemory
      else if 0x6800000 ≤ a.toNat ∧ a.toNat ≤ 0x6FFFFFF then .nvram
      else if 0x7FFFF00 ≤ a.toNat ∧ a.toNat ≤ 0x7FFFF1A then .pointerTable
      else if 0x7FFFF80 ≤ a.toNat then .processorId
      else .unmapped := by
  have last : a.toNat ≤ 0x7FFFFFF := Nat.le_of_lt_succ a.isLt
  simp only [MemMap.default, regionOf_cons, regionOf_nil, Nat.zero_le, true_and, last, and_true]

/-- The default map's plain memory. -/
theorem isPlain_default_iff (a : Addr) :
    isPlain .default a = true ↔ a.toNat ≤ 0x3FFFFFF ∨ 0x7FFFF00 ≤ a.toNat ∧ a.toNat ≤ 0x7FFFF1A := by
  rw [isPlain_iff, regionOf_default]
  by_cases low : a.toNat ≤ 0x3FFFFFF
  · simp [low]
  · by_cases table : 0x7FFFF00 ≤ a.toNat ∧ a.toNat ≤ 0x7FFFF1A
    · simp only [low, table, if_false]
      grind
    · simp only [low, table, if_false]
      grind

/-- Settles O48: the page's value and `Perm` decide what is allowed, the first range of the map what an address is. -/
theorem protectionAndMap : Obligations.ProtectionAndMap := by
  intro s a v n m
  refine ⟨⟨Iff.rfl, Iff.rfl, Iff.rfl⟩, fun perm => ?_, fun before r after map miss first last => ?_, fun miss => ?_,
    fun map => ?_, ?_, rfl⟩
  · have allowed {w : Prot} (page : v = w) := State.allows_default perm page
    refine ⟨fun page => ?_, fun page => ?_, fun page => ?_, fun page => ?_⟩
    all_goals
      simp only [allowed page]
      decide
  · have region : regionOf m a = r.region := by rw [map, regionOf_append miss, regionOf_cons, if_pos ⟨first, last⟩]
    rw [State.plain, isPlain_iff, State.regionRefusal_eq, region]
    exact ⟨Iff.rfl, rfl⟩
  · have region : regionOf m a = .unmapped := by rw [← List.append_nil m, regionOf_append miss, regionOf_nil]
    rw [State.plain, ← Bool.not_eq_true, isPlain_iff, State.regionRefusal_eq, region]
    exact ⟨by decide, rfl⟩
  · rw [State.plain, show s.settings.memMap = .default from map, isPlain_default_iff]
    refine ⟨Iff.rfl, fun device => ?_⟩
    rw [← Bool.not_eq_true, isPlain_default_iff, not_or] at device
    obtain ⟨high, noTable⟩ := device
    rw [State.regionRefusal_eq, show s.settings.memMap = .default from map, regionOf_default, if_neg high, if_neg noTable]
    simp only [apply_ite (refusalIn a)]
    rfl
  · simp [State.stale]

end Sys2Proof.Machine
end

section
/-! ## Loads and stores: the loop of a load as a state of its own, where each loop stops, and the statements about them. -/

namespace Sys2Proof.Machine

open Sys2Proof.Machine.Claim

/-! ### Registers after a load's loop -/

/-- A value read depends on memory only. -/
theorem elementAt_congr {s t : State} (h : t.mem = s.mem) (z : Size) (a : Addr) : elementAt t z a = elementAt s z a := by
  have bytes : byteOf t = byteOf s := by funext b; rw [byteOf, byteOf, h]
  simp only [elementAt, bytes]

/-- Which bytes can be read depends on memory, protections, stored marks and settings only. -/
theorem RegStep.readable_iff {s t : State} (h : RegStep s t) (k : AccessKind) (a : Addr) (b : Byte) :
    t.Readable k a b ↔ s.Readable k a b := by
  rw [h]
  exact Iff.rfl

/-- What reading a byte answers depends on them only. -/
theorem RegStep.readByte_eq {s t : State} (h : RegStep s t) (k : AccessKind) (a : Addr) : t.readByte k a = s.readByte k a := by
  rw [h]
  rfl

/-- The state after `n` elements from `a` are loaded into the registers from `r` on. -/
def State.loaded (z : Size) : Nat → RegNo → Addr → State → State
  | 0, _, _, s => s
  | n + 1, r, a, s => State.loaded z n (r + 1) (a + BitVec.ofNat 27 z.bytes) (s.setX r (elementAt s z a))

theorem State.regStep_loaded (z : Size) (n : Nat) (r : RegNo) (a : Addr) (s : State) : RegStep s (State.loaded z n r a s) := by
  induction n generalizing r a s with
  | zero => exact RegStep.refl s
  | succ n ih => exact (s.regStep_setX r _).trans (ih _ _ _)

theorem State.loaded_pc (z : Size) (n : Nat) (r : RegNo) (a : Addr) (s : State) : (State.loaded z n r a s).pc = s.pc := by
  induction n generalizing r a s with
  | zero => rfl
  | succ n ih => exact (ih _ _ _).trans (s.setX_pc r _)

theorem State.loaded_pcReg (z : Size) (n : Nat) (r : RegNo) (a : Addr) (s : State) :
    (State.loaded z n r a s).pcReg = s.pcReg := by
  rw [State.regStep_loaded z n r a s]
  rfl

/-- The distance of a register from the next one. -/
theorem regNo_sub_succ (q r : RegNo) : (q - (r + 1)).val = if q = r then 31 else (q - r).val - 1 := by
  have hq := q.isLt
  have hr := r.isLt
  simp only [Fin.ext_iff, Fin.sub_def, Fin.val_add]
  split <;> simp <;> omega

/-- No register is loaded twice, the range having at most 32. -/
theorem State.x_loaded (z : Size) {n : Nat} (hn : n ≤ 32) (r : RegNo) (a : Addr) (s : State) {q : RegNo} (hq : q ≠ s.pcReg) :
    (State.loaded z n r a s).x q = loadedReg s z r n a q := by
  induction n generalizing r a s with
  | zero => rfl
  | succ n ih =>
    rw [State.loaded, ih (by omega) _ _ _ (by simpa using hq), loadedReg, loadedReg, regNo_sub_succ,
      elementAt_congr (s.setX_mem r _), addr_add]
    by_cases first : q = r
    · subst first
      rw [if_pos rfl, if_neg (by omega), s.x_setX_same _ _ hq, sub_self, if_pos (by simp)]
      simp
    · have apart : (q - r).val ≠ 0 := fun e => first (sub_eq_zero.1 (Fin.ext e))
      have next : z.bytes + ((q - r).val - 1) * z.bytes = (q - r).val * z.bytes := by
        rw [Nat.sub_mul, Nat.one_mul, Nat.add_sub_cancel']
        exact Nat.le_mul_of_pos_left _ (by omega)
      rw [if_neg first, s.x_setX_ne _ _ _ first, next]
      exact if_congr (by omega) rfl rfl

/-! ### Where the loop of a load stops -/

/-- How a read that does not complete ends a run in state `s`. -/
def Access.stops {α : Type} (x : Access α) (s : State) : Run :=
  match x with
  | .ok _ => .done s
  | .denied k a => .denied k a s
  | .stopped f => .stopped f
  | .refused e => .refused e

/-- The elements that can be read are loaded, one after the other. -/
theorem loadLoop_add (z : Size) {k : Nat} (n : Nat) {r : RegNo} {a : Addr} {s : State} (h : AllReadable s a (k * z.bytes)) :
    State.loadLoop z (k + n) r a s =
      State.loadLoop z n (r + Fin.ofNat 32 k) (a + BitVec.ofNat 27 (k * z.bytes)) (State.loaded z k r a s) := by
  induction k generalizing r a s with
  | zero => simp [State.loaded]
  | succ k ih =>
    have size : (k + 1) * z.bytes = z.bytes + k * z.bytes := by rw [Nat.succ_mul, Nat.add_comm]
    have head : s.readValue z a = .ok (elementAt s z a) := State.readValue_eq_elementAt fun i hi => h i (by omega)
    have step := s.regStep_setX r (elementAt s z a)
    have rest : AllReadable (s.setX r (elementAt s z a)) (a + BitVec.ofNat 27 z.bytes) (k * z.bytes) := fun i hi => by
      simp only [step.readable_iff, addr_add]
      exact h _ (by omega)
    have register : r + 1 + Fin.ofNat 32 k = r + Fin.ofNat 32 (k + 1) := by
      apply Fin.ext
      simp [Fin.val_add]
      omega
    rw [show k + 1 + n = (k + n) + 1 by omega, State.loadLoop, head]
    simp only
    rw [ih rest, addr_add, register, size]
    rfl

/-- A load whose bytes can all be read. -/
theorem loadLoop_of_readable (z : Size) {n : Nat} {r : RegNo} {a : Addr} {s : State} (h : AllReadable s a (n * z.bytes)) :
    State.loadLoop z n r a s = .done (State.loaded z n r a s) := loadLoop_add z 0 h

/-- A load that meets a byte it cannot read, byte j of element k: the elements before are loaded, and that byte's own answer
ends the run. -/
theorem loadLoop_stop (z : Size) {n k j : Nat} {r : RegNo} {a : Addr} {s : State} (hk : k < n) (hj : j < z.bytes)
    (h : AllReadable s a (k * z.bytes + j)) (stop : ∀ b, ¬ s.Readable .read (a + BitVec.ofNat 27 (k * z.bytes + j)) b) :
    State.loadLoop z n r a s =
      (s.readByte .read (a + BitVec.ofNat 27 (k * z.bytes + j))).stops (State.loaded z k r a s) := by
  obtain ⟨m, rfl⟩ : ∃ m, n = k + (m + 1) := ⟨n - k - 1, by omega⟩
  have step := State.regStep_loaded z k r a s
  have value : (State.loaded z k r a s).readValue z (a + BitVec.ofNat 27 (k * z.bytes)) =
      ((s.readByte .read (a + BitVec.ofNat 27 (k * z.bytes + j))).bind fun _ => .ok []).bind fun l => .ok (z.join l) := by
    rw [State.readValue, State.readBytes_stop hj, addr_add, step.readByte_eq]
    · intro i hi
      simp only [step.readable_iff, addr_add]
      exact h _ (by omega)
    · intro b
      rw [step.readable_iff, addr_add]
      exact stop b
  rw [loadLoop_add z (m + 1) fun i hi => h i (by omega), State.loadLoop, value]
  cases answer : s.readByte .read (a + BitVec.ofNat 27 (k * z.bytes + j)) with
  | ok b => exact absurd (State.readByte_ok_iff.1 answer) (stop b)
  | denied _ _ | stopped _ | refused _ => rfl

/-! ### The base register -/

/-- A register other than the program counter after a write. -/
theorem State.x_setX_of_ne_pcReg (s : State) (r : RegNo) (v : Word) {q : RegNo} (hq : q ≠ s.pcReg) :
    (s.setX r v).x q = if q = r then v else s.x q := by
  rw [State.x_setX]
  exact if_congr ⟨And.left, fun e => ⟨e, e ▸ hq⟩⟩ rfl rfl

/-- The registers after rB is updated as the mode says. -/
theorem State.x_adjustBase (s : State) (z : Size) (rB : RegNo) (count : Fin 32) (mode : Fin 4) (temp : Word) {q : RegNo}
    (hq : q ≠ s.pcReg) :
    (s.adjustBase z rB count mode temp).x q =
      if q = rB ∧ mode = 1 then s.x rB + BitVec.ofNat 27 (moved z count)
      else if q = rB ∧ mode = 2 then temp else s.x q := by
  unfold State.adjustBase
  by_cases raised : mode = 1
  · subst raised
    rw [if_pos rfl, State.x_setX_of_ne_pcReg _ _ _ hq]
    simp [moveBytes, moved]
  · by_cases lowered : mode = 2
    · subst lowered
      rw [if_neg raised, if_pos rfl, State.x_setX_of_ne_pcReg _ _ _ hq]
      simp
    · simp [raised, lowered]

theorem State.moveBase_eq (s : State) (z : Size) (rB : RegNo) (count : Fin 32) (mode : Fin 4) :
    s.moveBase z rB count mode = baseOf s z rB count mode := rfl

/-! ### Loads -/

section
variable {z : Size} {rA rB : RegNo} {count : Fin 32} {mode : Fin 4} {offset : BitVec 27} {s : State} (valid : mode ≠ 3)
include valid

theorem exec_loadOf_valid : exec (loadOf z rA rB count mode offset) s =
    (State.loadLoop z (count.val + 1) rA (s.moveLoc z rB count mode offset) s).finish 6 fun t =>
      .next ((t.adjustBase z rB count mode (s.moveBase z rB count mode)).advance 6) :=
  (exec_loadOf ..).trans (if_neg valid)

/-- A load that meets a byte it cannot read ends with that byte's own answer, the registers before it loaded. -/
theorem exec_loadOf_stop {k j : Nat} (hk : k ≤ count.val) (hj : j < z.bytes)
    (h : AllReadable s (s.moveLoc z rB count mode offset) (k * z.bytes + j))
    (stop : ∀ b, ¬ s.Readable .read (s.moveLoc z rB count mode offset + BitVec.ofNat 27 (k * z.bytes + j)) b) :
    exec (loadOf z rA rB count mode offset) s =
      ((s.readByte .read (s.moveLoc z rB count mode offset + BitVec.ofNat 27 (k * z.bytes + j))).stops
        (State.loaded z k rA (s.moveLoc z rB count mode offset) s)).finish 6 fun t =>
      .next ((t.adjustBase z rB count mode (s.moveBase z rB count mode)).advance 6) := by
  rw [exec_loadOf_valid valid, loadLoop_stop z (by omega) hj h stop]

end

/-- Settles O43: the loop loads every element, then rB is updated and the program counter moves on. -/
theorem loadsComplete : Obligations.LoadsComplete := by
  intro z rA rB count mode offset s valid readable
  refine ⟨rfl, _, by rw [exec_loadOf_valid valid, loadLoop_of_readable z readable]; rfl, fun q hq => ?_, ?_, ?_⟩
  · have loaded (r : RegNo) (hr : r ≠ s.pcReg) :=
      State.x_loaded z (n := count.val + 1) (by omega) rA (s.moveLoc z rB count mode offset) s hr
    rw [State.x_advance, State.adjustBase_pcReg, State.loaded_pcReg, if_neg hq,
      State.x_adjustBase _ _ _ _ _ _ (by rwa [State.loaded_pcReg]), loaded q hq, State.moveBase_eq]
    refine ite_congr rfl (fun raised => ?_) fun _ => rfl
    rw [← loaded q hq, raised.1]
  · rw [State.advance_pc, State.adjustBase_pc, State.loaded_pc]
  · exact ((State.regStep_loaded ..).trans ((State.regStep_adjustBase ..).trans (State.regStep_advance ..))).sameRest

/-- Settles O46: the loop stops at the denied byte, before rB is updated. -/
theorem loadDeniedPartWay : Obligations.LoadDeniedPartWay := by
  intro z rA rB count mode offset s k j valid hk hj loc a readable plain denied
  refine ⟨State.loaded z k rA loc s, ?_, fun q hq => State.x_loaded z (by omega) rA loc s hq, State.loaded_pc ..,
    (State.regStep_loaded ..).sameRest⟩
  rw [exec_loadOf_stop valid hk hj readable fun b hb => by simp [a, loc, hb.2.1] at denied, State.readByte_denied plain denied]
  rfl

/-! ### Stores -/

/-- The bytes a store moves do not wrap onto each other. -/
theorem moved_le (z : Size) (count : Fin 32) : moved z count ≤ 2 ^ 27 := by
  have h := count.isLt
  cases z <;> simp only [moved, Size.bytes] <;> omega

section
variable {z : Size} {rA rB : RegNo} {count : Fin 32} {mode : Fin 4} {offset : BitVec 27} {s : State} (valid : mode ≠ 3)
include valid

theorem exec_storeOf_valid : exec (storeOf z rA rB count mode offset) s =
    (s.writeBytes (s.moveLoc z rB count mode offset) (s.storeBytes z (count.val + 1) rA)).finish 6 fun t =>
      if rB = s.pcReg ∧ mode ≠ 0 then .refused .writeToR31
      else .next ((t.adjustBase z rB count mode (s.moveBase z rB count mode)).advance 6) := by
  rw [← State.storeLoop_eq]
  exact (exec_storeOf ..).trans (if_neg valid)

/-- A store whose bytes can all be written stores them. -/
theorem exec_storeOf_writable (writable : AllWritable s (s.moveLoc z rB count mode offset) (moved z count)) :
    exec (storeOf z rA rB count mode offset) s =
      if rB = s.pcReg ∧ mode ≠ 0 then .refused .writeToR31
      else .next (((s.putBytes (s.moveLoc z rB count mode offset) (s.storeBytes z (count.val + 1) rA)).adjustBase z rB count
        mode (s.moveBase z rB count mode)).advance 6) := by
  rw [exec_storeOf_valid valid, State.writeBytes_of_writable (by rw [State.storeBytes_length]; exact writable)]
  rfl

end

/-- Byte j of element k lies within the range of a store. -/
theorem element_lt {z : Size} {k j n : Nat} (hk : k < n) (hj : j < z.bytes) : k * z.bytes + j < n * z.bytes :=
  calc k * z.bytes + j < k * z.bytes + z.bytes := by omega
    _ = (k + 1) * z.bytes := (Nat.succ_mul ..).symm
    _ ≤ n * z.bytes := Nat.mul_le_mul_right _ hk

/-- The bytes that a store writes, by register and place. -/
theorem State.storeBytes_getElem_eq (s : State) (z : Size) {n : Nat} (r : RegNo) {k : Fin 32} {j : Nat} (hk : k.val < n)
    (hj : j < z.bytes) (h : k.val * z.bytes + j < (s.storeBytes z n r).length) :
    (s.storeBytes z n r)[k.val * z.bytes + j] = storedByte z (s.x (r + k)) j := by
  rw [State.storeBytes_getElem s z n r k.val j hk hj h, Size.split_getElem, Fin.ofNat_val_eq_self]

/-- Settles O44: the bytes are stored as one sequence, then rB is updated and the program counter moves on. -/
theorem storesComplete : Obligations.StoresComplete := by
  intro z rA rB count mode offset s valid updates writable
  have allowed : ¬ (rB = s.pcReg ∧ mode ≠ 0) := fun h => h.2 (updates h.1)
  have length : (s.storeBytes z (count.val + 1) rA).length = moved z count := State.storeBytes_length ..
  have fits : (s.storeBytes z (count.val + 1) rA).length ≤ 2 ^ 27 := length ▸ moved_le z count
  have pcReg : (s.putBytes (s.moveLoc z rB count mode offset) (s.storeBytes z (count.val + 1) rA)).pcReg = s.pcReg := by
    simp [State.pcReg]
  refine ⟨rfl, _, (exec_storeOf_writable valid writable).trans (if_neg allowed), fun k hk j hj => ?_, fun a ha => ?_,
    fun a => ?_, fun q hq => ?_, ?_, fun p => ?_, ?_⟩
  · have inside := element_lt (Nat.lt_succ_of_le hk) hj
    rw [State.advance_mem, State.adjustBase_mem, State.byteAt_putBytes_at _ _ fits (by rwa [length]),
      State.storeBytes_getElem_eq _ _ _ (by omega) hj]
  · rw [State.advance_mem, State.adjustBase_mem, State.byteAt_putBytes_outside _ _ _ fits (by rwa [length])]
  · rw [State.advance_stored, State.adjustBase_stored, State.has_putBytes _ _ _ _ fits, length]
  · rw [State.x_advance, State.adjustBase_pcReg, pcReg, if_neg hq, State.x_adjustBase _ _ _ _ _ _ (by rwa [pcReg]),
      State.x_putBytes, State.x_putBytes]
    rfl
  · rw [State.advance_pc, State.adjustBase_pc]
    exact congrArg (· + _) (State.pc_congr (by simp) (by simp))
  · simp
  · exact ⟨by simp, by simp, by simp, by simp⟩

/-- Settles O45: once the bytes are stored the update of the program counter is refused. -/
theorem storeUpdatingPcRefused : Obligations.StoreUpdatingPcRefused := by
  intro z rA count mode offset s modes writable
  have valid : mode ≠ 3 := by rintro rfl; revert modes; decide
  have updates : mode ≠ 0 := by rintro rfl; revert modes; decide
  exact (exec_storeOf_writable valid writable).trans (if_pos ⟨rfl, updates⟩)

/-- Settles O47: the sequence of writes stops at the denied byte, the bytes before it stored. -/
theorem storeDeniedPartWay : Obligations.StoreDeniedPartWay := by
  intro z rA rB count mode offset s k j valid hk hj loc a writable plain denied
  have inside : k.val * z.bytes + j < (count.val + 1) * z.bytes := element_lt (Nat.lt_succ_of_le (Fin.le_def.1 hk)) hj
  have length : (s.storeBytes z (count.val + 1) rA).length = moved z count := State.storeBytes_length ..
  have taken : ((s.storeBytes z (count.val + 1) rA).take (k.val * z.bytes + j)).length = k.val * z.bytes + j := by
    rw [List.length_take, length]
    exact Nat.min_eq_left (Nat.le_of_lt inside)
  have bound := moved_le z count
  have fits : ((s.storeBytes z (count.val + 1) rA).take (k.val * z.bytes + j)).length ≤ 2 ^ 27 := by
    rw [taken]
    exact (Nat.le_of_lt inside).trans bound
  refine ⟨s.putBytes loc ((s.storeBytes z (count.val + 1) rA).take (k.val * z.bytes + j)), ?_, fun m i hi before => ?_,
    fun b hb => ?_, fun b => ?_, fun q _ => State.x_putBytes .., State.pc_congr (by simp) (by simp), fun p => by simp, by simp,
    by simp, by simp, by simp⟩
  · rw [exec_storeOf_valid valid, State.writeBytes_denied (by rw [length]; exact inside) writable plain denied]
    rfl
  · have element : m.val < count.val + 1 := by
      by_contra beyond
      have : (count.val + 1) * z.bytes ≤ m.val * z.bytes := Nat.mul_le_mul_right _ (not_lt.1 beyond)
      omega
    rw [State.byteAt_putBytes_at _ _ fits (by rwa [taken]), List.getElem_take, State.storeBytes_getElem_eq _ _ _ element hi]
  · rw [State.byteAt_putBytes_outside _ _ _ fits (by rwa [taken])]
  · rw [State.has_putBytes _ _ _ _ fits, taken]

/-- Settles O49: the byte's own answer ends the loop, and with it the instruction. -/
theorem accessesThatStop : Obligations.AccessesThatStop := by
  intro z rA rB count mode offset s m valid hm loc a
  have size : 0 < z.bytes := by cases z <;> decide
  have place : m / z.bytes * z.bytes + m % z.bytes = m := Nat.div_add_mod' m z.bytes
  have element : m / z.bytes ≤ count.val := Nat.le_of_lt_succ (Nat.div_lt_of_lt_mul (by rwa [Nat.mul_comm]))
  have stops (readable : AllReadable s loc m) (stop : ∀ b, ¬ s.Readable .read a b) :=
    exec_loadOf_stop (rA := rA) valid element (Nat.mod_lt m size) (by rwa [place]) (by rwa [place])
  rw [place] at stops
  refine ⟨fun readable region => ?_, fun writable region => ?_, fun readable plain allowed unwritten => ?_⟩
  · rw [stops readable fun b hb => by simp [hb.1] at region, State.readByte_region region]
    rfl
  · rw [exec_storeOf_valid valid, State.writeBytes_region (m := m) (by rw [State.storeBytes_length]; exact hm) writable region]
    rfl
  · rw [stops readable fun b hb => by simp [hb.2.2.2] at unwritten,
      State.readByte_unwritten plain allowed (State.stale_read ..) unwritten]
    rfl

end Sys2Proof.Machine
end

section
/-! ## The memory transfer DMT: the bytes that its loop has copied, and where it stops. -/

namespace Sys2Proof.Machine

open Sys2Proof.Machine.Claim

/-! ### States that differ in memory only -/

theorem MemStep.plain_eq {s t : State} (h : MemStep s t) (a : Addr) : t.plain a = s.plain a := by
  rw [h.1]
  rfl

theorem MemStep.allows_eq {s t : State} (h : MemStep s t) (k : AccessKind) (a : Addr) : t.allows k a = s.allows k a := by
  rw [h.1]
  rfl

theorem MemStep.regionRefusal_eq {s t : State} (h : MemStep s t) (a : Addr) : t.regionRefusal a = s.regionRefusal a := by
  rw [h.1]
  rfl

theorem MemStep.x_eq {s t : State} (h : MemStep s t) (q : RegNo) : t.x q = s.x q := State.x_congr h.same.1 q

theorem MemStep.pc_eq {s t : State} (h : MemStep s t) : t.pc = s.pc := by
  rw [h.1]
  rfl

theorem MemStep.sameProtection {s t : State} (h : MemStep s t) : SameProtection s t := fun p => by
  obtain ⟨-, prot, -⟩ := h.same
  rw [prot]

theorem MemStep.sameMachine {s t : State} (h : MemStep s t) : SameMachine s t := by
  obtain ⟨-, -, pending, runState, settings, arrivals, -⟩ := h.same
  exact ⟨pending, runState, settings, arrivals⟩

theorem State.writeByte_denied {s : State} {a : Addr} (plain : s.plain a = true) (denied : s.allows .write a = false)
    (b : Byte) : s.writeByte a b = .denied .write a s := by
  simp [State.writeByte, plain, denied]

theorem State.writeByte_region {s : State} {a : Addr} (region : s.plain a = false) (b : Byte) :
    s.writeByte a b = .refused (s.regionRefusal a) := by
  simp [State.writeByte, region]

/-! ### The loop -/

/-- The place of an address in a range. -/
theorem offset_eq_iff (d x : Addr) {m : Nat} (hm : m < 2 ^ 27) : x = d + BitVec.ofNat 27 m ↔ (x - d).toNat = m := by
  constructor
  · rintro rfl
    rw [add_sub_cancel_left, BitVec.toNat_ofNat, Nat.mod_eq_of_lt hm]
  · rintro rfl
    rw [BitVec.ofNat_toNat, BitVec.setWidth_eq, add_sub_cancel]

/-- The loop copies `m` bytes and then the rest. -/
theorem copyLoop_add (m n : Nat) (d c : Addr) (s : State) :
    State.copyLoop (m + n) d c s =
      (State.copyLoop m d c s).andThen (State.copyLoop n (d + BitVec.ofNat 27 m) (c + BitVec.ofNat 27 m)) := by
  induction m generalizing d c s with
  | zero => simp [State.copyLoop, Run.andThen]
  | succ m ih =>
    have next (a : Addr) : a + 1 + BitVec.ofNat 27 m = a + BitVec.ofNat 27 (m + 1) := by
      rw [show (a + 1 : Addr) = a + BitVec.ofNat 27 1 from rfl, addr_add, Nat.add_comm 1]
    rw [show m + 1 + n = (m + n) + 1 by omega, State.copyLoop, State.copyLoop]
    cases s.readByte .read c with
    | ok b => simp only [Run.andThen_assoc, ih, next]
    | denied _ _ | stopped _ | refused _ => rfl

/-- After the first `m` bytes of a copy: they are copied, and hold values. -/
structure CopiedSoFar (s u : State) (d c : Addr) (m : Nat) : Prop where
  memStep : MemStep s u
  copied : Copied s u d c m
  present : ∀ q < m, ∃ b, u.mem.byteAt (d + BitVec.ofNat 27 q) = some b

section
variable {s u : State} {d c : Addr} {m : Nat}

/-- A source byte that the copy has not written is as it was. -/
theorem CopiedSoFar.byteAt_outside (h : CopiedSoFar s u d c m) {a : Addr} (outside : m ≤ (a - d).toNat) :
    u.mem.byteAt a = s.mem.byteAt a := h.copied.2.1 a outside

/-- The next source byte can be read when it can be read at its turn: it was there, or the copy wrote it. -/
theorem CopiedSoFar.readable (h : CopiedSoFar s u d c m) (reads : CopyReads s d c m) :
    ∃ b, u.Readable .read (c + BitVec.ofNat 27 m) b := by
  obtain ⟨plain, allowed, source⟩ := reads
  have value : ∃ b, u.mem.byteAt (c + BitVec.ofNat 27 m) = some b := by
    by_cases written : (c + BitVec.ofNat 27 m - d).toNat < m
    · rw [(offset_eq_iff d (c + BitVec.ofNat 27 m) (by omega)).2 rfl]
      exact h.present _ written
    · rw [h.byteAt_outside (not_lt.1 written)]
      exact Option.ne_none_iff_exists'.1 (source.resolve_right written)
  obtain ⟨b, hb⟩ := value
  exact ⟨b, (h.memStep.plain_eq _).trans plain, (h.memStep.allows_eq _ _).trans allowed, State.stale_read .., hb⟩

/-- One byte more. -/
theorem CopiedSoFar.putByte (h : CopiedSoFar s u d c m) (bound : m < 2 ^ 27) {b : Byte}
    (source : u.mem.byteAt (c + BitVec.ofNat 27 m) = some b) (plain : s.plain (d + BitVec.ofNat 27 m) = true) :
    CopiedSoFar s (u.putByte (d + BitVec.ofNat 27 m) b) d c (m + 1) := by
  have step : MemStep s (u.putByte (d + BitVec.ofNat 27 m) b) :=
    h.memStep.trans (u.memStep_putByte _ b ((h.memStep.plain_eq _).trans plain))
  have here : (u.putByte (d + BitVec.ofNat 27 m) b).mem.byteAt (d + BitVec.ofNat 27 m) = some b := by
    rw [State.putByte_mem, Memory.byteAt_withByte, if_pos rfl]
  have elsewhere {a : Addr} (ha : (a - d).toNat ≠ m) :
      (u.putByte (d + BitVec.ofNat 27 m) b).mem.byteAt a = u.mem.byteAt a := by
    rw [State.putByte_mem, Memory.byteAt_withByte, if_neg fun e => ha ((offset_eq_iff d a bound).1 e)]
  have place {q : Nat} (hq : q < m) : (d + BitVec.ofNat 27 q - d).toNat ≠ m := by
    rw [(offset_eq_iff d _ (hq.trans bound)).1 rfl]
    omega
  obtain ⟨bytes, outside, marks, -⟩ := h.copied
  refine ⟨step, ⟨fun q hq => ?_, fun a ha => ?_, fun a => ?_, fun q _ => step.x_eq q, step.sameProtection, step.sameMachine⟩,
    fun q hq => ?_⟩
  · rcases Nat.lt_succ_iff_lt_or_eq.1 hq with before | rfl
    · rw [elsewhere (place before), bytes q before]
      refine ite_congr rfl (fun written => (elsewhere ?_).symm) fun _ => rfl
      omega
    · rw [here, ← source]
      split
      · next written => exact (elsewhere (by omega)).symm
      · next fresh => exact outside _ (not_lt.1 fresh)
  · rw [elsewhere (by omega), outside a (by omega)]
  · rw [State.putByte_stored, AddrSet.has_add, marks a, ← Bool.or_assoc, ← Bool.decide_or]
    congr 1
    rw [decide_eq_decide, offset_eq_iff d a bound]
    omega
  · rcases Nat.lt_succ_iff_lt_or_eq.1 hq with before | rfl
    · rw [elsewhere (place before)]
      exact h.present q before
    · exact ⟨b, here⟩

/-- A copy of `m` bytes all of which can be read and written. -/
theorem copyLoop_of_runs (bound : m ≤ 2 ^ 27) (runs : CopyRuns s d c m) :
    ∃ u, State.copyLoop m d c s = .done u ∧ CopiedSoFar s u d c m := by
  induction m with
  | zero =>
    exact ⟨s, rfl, MemStep.refl s, ⟨fun q hq => absurd hq (Nat.not_lt_zero q), fun _ _ => rfl, fun _ => by simp,
      fun _ _ => rfl, fun _ => rfl, rfl, rfl, rfl, rfl⟩, fun q hq => absurd hq (Nat.not_lt_zero q)⟩
  | succ m ih =>
    obtain ⟨u, done, copied⟩ := ih (by omega) fun q hq => runs q (by omega)
    obtain ⟨reads, plain, allowed⟩ := runs m (by omega)
    obtain ⟨b, readable⟩ := copied.readable reads
    have writable : u.Writable (d + BitVec.ofNat 27 m) :=
      ⟨(copied.memStep.plain_eq _).trans plain, (copied.memStep.allows_eq _ _).trans allowed⟩
    refine ⟨_, ?_, copied.putByte (by omega) readable.2.2.2 plain⟩
    rw [copyLoop_add, done]
    simp only [Run.andThen, State.copyLoop, State.readByte_of_readable readable, State.writeByte_of_writable writable]

end

theorem exec_dmt (rA rB rC : RegNo) (s : State) :
    exec (.dmt rA rB rC) s =
      (State.copyLoop (s.x rC).toNat (s.x rA) (s.x rB) s).finish 3 fun t => .next (t.advance 3) := rfl

/-- Moving on after a copy. -/
theorem copied_advance {s t : State} {d c : Addr} {n : Nat} (h : Copied s t d c n) (pcReg : t.pcReg = s.pcReg) (len : Nat) :
    Copied s (t.advance len) d c n := by
  obtain ⟨bytes, outside, marks, registers, protection, machine⟩ := h
  refine ⟨bytes, outside, marks, fun q hq => ?_, protection, machine⟩
  rw [State.x_advance, if_neg (by rwa [pcReg]), registers q hq]

/-- Settles O50: the loop copies the bytes it can, and the answer of the next read or write is the instruction's. -/
theorem transferCopies : Obligations.TransferCopies := by
  intro rA rB rC s dst src n i
  have bound : n ≤ 2 ^ 27 := Nat.le_of_lt (s.x rC).isLt
  refine ⟨fun runs => ?_, ?_⟩
  · obtain ⟨t, done, copied⟩ := copyLoop_of_runs bound runs
    have pcReg : t.pcReg = s.pcReg := by rw [copied.memStep.1]; rfl
    refine ⟨t.advance 3, ?_, copied_advance copied.copied pcReg 3, ?_⟩
    · rw [exec_dmt, done]
      rfl
    · rw [State.advance_pc, copied.memStep.pc_eq]
  · intro m hm runs a d denied
    obtain ⟨u, done, copied⟩ := copyLoop_of_runs (hm.le.trans bound) runs
    have same := copied.memStep
    obtain ⟨k, hk⟩ : ∃ k, n = m + (k + 1) := ⟨n - m - 1, by omega⟩
    have turn : exec i s = (State.copyLoop (k + 1) d a u).finish 3 fun t => .next (t.advance 3) := by
      rw [exec_dmt, show (s.x rC).toNat = m + (k + 1) from hk, copyLoop_add, done]
      rfl
    have stops {x : Run} (answer : State.copyLoop (k + 1) d a u = x) :
        exec i s = x.finish 3 fun t => .next (t.advance 3) := answer ▸ turn
    refine ⟨fun plain forbids => ⟨u, ?_, copied.copied, same.pc_eq⟩, fun region => ?_,
      fun plain allowed unwritten outside => ?_, fun reads plain forbids => ⟨u, ?_, copied.copied, same.pc_eq⟩,
      fun reads region => ?_⟩
    · refine stops (x := .denied .read a u) ?_
      rw [State.copyLoop, State.readByte_denied ((same.plain_eq a).trans plain) ((same.allows_eq _ a).trans forbids)]
    · rw [stops (x := .refused (u.regionRefusal a)) ?_, same.regionRefusal_eq]
      · rfl
      · rw [State.copyLoop, State.readByte_region ((same.plain_eq a).trans region)]
    · refine stops (x := .stopped (.unwrittenByte a)) ?_
      rw [State.copyLoop, State.readByte_unwritten ((same.plain_eq a).trans plain) ((same.allows_eq _ a).trans allowed)
        (State.stale_read ..) ((copied.byteAt_outside outside).trans unwritten)]
    · obtain ⟨b, readable⟩ := copied.readable reads
      refine stops (x := .denied .write d u) ?_
      rw [State.copyLoop, State.readByte_of_readable readable]
      simp only [State.writeByte_denied ((same.plain_eq d).trans plain) ((same.allows_eq _ d).trans forbids), Run.andThen]
    · obtain ⟨b, readable⟩ := copied.readable reads
      rw [stops (x := .refused (u.regionRefusal d)) ?_, same.regionRefusal_eq]
      · rfl
      · rw [State.copyLoop, State.readByte_of_readable readable]
        simp only [State.writeByte_region ((same.plain_eq d).trans region), Run.andThen]

end Sys2Proof.Machine
end

section
/-! ## Traps: what a delivered entry leaves, when it is not delivered, what IR restores, and that the two undo each other. -/

namespace Sys2Proof.Machine

open Sys2Proof.Machine.Claim

/-! ### Interrupt return (49_system.md R404) -/

theorem Access.bind_assoc {α β γ : Type} (x : Access α) (f : α → Access β) (g : β → Access γ) :
    (x.bind f).bind g = x.bind fun v => (f v).bind g := by cases x <;> rfl

/-- What follows a read that does not complete does not matter. -/
theorem State.readByte_bind_of_not_readable {s : State} {k : AccessKind} {a : Addr} (stop : ∀ b, ¬ s.Readable k a b)
    {β : Type} (f g : Byte → Access β) : (s.readByte k a).bind f = (s.readByte k a).bind g := by
  cases answer : s.readByte k a with
  | ok b => exact absurd (State.readByte_ok_iff.1 answer) (stop b)
  | denied _ _ | stopped _ | refused _ => rfl

/-- Tris that can be read are the elements in memory. -/
theorem State.readTris_eq_elements {s : State} {n : Nat} {a : Addr} (h : AllReadable s a (3 * n)) :
    s.readTris n a = .ok ((List.range n).map fun k => elementAt s .tri (a + BitVec.ofNat 27 (3 * k))) := by
  rw [State.readTris_of_readable h]
  simp only [← Size.join_bytesAt, Size.bytes]

/-- Tris that meet a byte that cannot be read end with that byte's own answer. -/
theorem State.readTris_stop {s : State} {n m : Nat} {a : Addr} (hm : m < 3 * n) (h : AllReadable s a m)
    (stop : ∀ b, ¬ s.Readable .read (a + BitVec.ofNat 27 m) b) :
    s.readTris n a = (s.readByte .read (a + BitVec.ofNat 27 m)).bind fun _ => .ok [] := by
  induction n generalizing m a with
  | zero => omega
  | succ n ih =>
    rw [State.readTris]
    by_cases head : m < 3
    · rw [State.readValue, State.readBytes_stop (n := Size.tri.bytes) head h stop, Access.bind_assoc, Access.bind_assoc]
      exact State.readByte_bind_of_not_readable stop _ _
    · have first : AllReadable s a Size.tri.bytes := fun i hi => h i (lt_of_lt_of_le hi (not_lt.1 head))
      have ahead (i : Nat) : a + 3 + BitVec.ofNat 27 i = a + BitVec.ofNat 27 (3 + i) := addr_add a 3 i
      have place : a + 3 + BitVec.ofNat 27 (m - 3) = a + BitVec.ofNat 27 m := by
        rw [ahead, Nat.add_sub_cancel' (not_lt.1 head)]
      have rest : s.readTris n (a + 3) = (s.readByte .read (a + BitVec.ofNat 27 m)).bind fun _ => .ok [] := by
        rw [← place]
        refine ih (by omega) (fun i hi => ?_) (by rwa [place])
        rw [ahead]
        exact h _ (by omega)
      rw [State.readValue_eq_elementAt first, rest]
      exact (Access.bind_assoc _ _ _).trans (State.readByte_bind_of_not_readable stop _ _)

theorem exec_ir (s : State) :
    exec .ir s = (s.readTris 33 s.returnBase).finish s 2 fun frame => .next (s.restoreFrame frame) := rfl

/-- IR whose frame meets a byte that cannot be read ends with that byte's own answer, and changes nothing before. -/
theorem exec_ir_stop {s : State} {m : Nat} (hm : m < 99) (h : AllReadable s s.returnBase m)
    (stop : ∀ b, ¬ s.Readable .read (s.returnBase + BitVec.ofNat 27 m) b) :
    exec .ir s = ((s.readByte .read (s.returnBase + BitVec.ofNat 27 m)).bind fun _ => .ok []).finish s 2 fun frame =>
      .next (s.restoreFrame frame) := by
  rw [exec_ir, State.readTris_stop hm h stop]

/-- Tri k of the frame that IR reads. -/
def State.returnTri (s : State) (k : Nat) : Word := elementAt s .tri (s.returnBase + BitVec.ofNat 27 (3 * k))

/-- IR with a frame that can be read: each register from its slot. -/
theorem exec_ir_of_readable {s : State} (readable : AllReadable s s.returnBase 99) :
    ∃ t, exec .ir s = .next t ∧ (∀ q : RegNo, q ≠ s.stReg → q ≠ s.flagsReg → t.x q = s.returnTri q.val) ∧
      t.x s.stReg = (if s.stackUp then s.returnTri s.stReg.val else s.returnTri s.stReg.val + frameSize) ∧
      t.flags = s.returnTri 32 ∧ t.pc = s.returnTri s.pcReg.val ∧ SameRest s t := by
  obtain ⟨frame, isFrame⟩ : ∃ frame, frame = (List.range 33).map s.returnTri := ⟨_, rfl⟩
  have read : s.readTris 33 s.returnBase = .ok frame := isFrame ▸ State.readTris_eq_elements readable
  have slot (k : Nat) (hk : k < 33) : frame.getD k 0#27 = s.returnTri k := by
    rw [isFrame, List.getD_eq_getElem _ _ (by simpa using hk), List.getElem_map, List.getElem_range]
  have register (q : RegNo) : (s.restoreFrame frame).x q =
      if q = s.stReg then returnST s.stackUp (s.returnTri q.val)
      else if q = s.flagsReg then s.returnTri 32 else s.returnTri q.val := by
    rw [State.x_restoreFrame, State.restored, slot q.val (by omega), slot 32 (by omega)]
  refine ⟨s.restoreFrame frame, ?_, fun q hst hfl => ?_, ?_, ?_, ?_, (s.regStep_restoreFrame _).sameRest⟩
  · rw [exec_ir, read]
    rfl
  · rw [register, if_neg hst, if_neg hfl]
  · rw [register, if_pos rfl, returnST]
  · rw [State.flags, State.restoreFrame_flagsReg, register, if_neg s.flagsReg_ne_stReg, if_pos rfl]
  · rw [State.pc, State.restoreFrame_pcReg, register, if_neg s.pcReg_ne_stReg, if_neg s.pcReg_ne_flagsReg]

/-- Settles O58: the registers come from their slots, or the byte that cannot be read answers. -/
theorem interruptReturnRestores : Obligations.InterruptReturnRestores := by
  intro s up base tri
  refine ⟨exec_ir_of_readable, ?_⟩
  · intro m hm readable a
    have stops (stop : ∀ b, ¬ s.Readable .read a b) : exec .ir s = ((s.readByte .read a).bind fun _ => .ok []).finish s 2
        fun frame => .next (s.restoreFrame frame) := exec_ir_stop hm readable stop
    refine ⟨fun plain denied => ?_, fun region => ?_, fun plain allowed unwritten => ?_⟩
    · rw [Raises, stops fun b hb => absurd hb.2.1 (ne_true_of_eq_false denied), State.readByte_denied plain denied]
      rfl
    · rw [stops fun b hb => absurd hb.1 (ne_true_of_eq_false region), State.readByte_region region]
      rfl
    · rw [stops fun b hb => Option.some_ne_none b (hb.2.2.2.symm.trans unwritten),
        State.readByte_unwritten plain allowed (State.stale_read ..) unwritten]
      rfl

/-! ### Trap entry (60_exceptions.md R510, R512) -/

/-- The state with the frame of a trap entry written. -/
def State.framed (s : State) (ret : Addr) : State := s.lowerST.putBytes s.entryBase (triBytes (s.lowerST.frameOf ret))

theorem State.frameBytes_length (s : State) (ret : Addr) : (triBytes (s.lowerST.frameOf ret)).length = 99 := by
  rw [triBytes_length, frame_len]

/-- Lowering ST changes no byte's access. -/
theorem State.writable_lowerST (s : State) (a : Addr) : s.lowerST.Writable a ↔ s.Writable a := by
  rw [s.regStep_lowerST]
  exact Iff.rfl

/-- A delivered entry writes the frame and enters the handler. -/
theorem State.trapEntry_of_deliverable {s : State} {n : IntNo} (h : Deliverable s n) (ret : Addr) :
    s.trapEntry n ret = (s.framed ret).enterHandler n (elementAt s .tri (handlerAddr s n)) := by
  obtain ⟨enabled, vector, handler, frame⟩ := h
  have written : s.lowerST.writeTris s.entryBase (s.lowerST.frameOf ret) = .done (s.framed ret) := by
    rw [State.writeTris_eq, State.writeBytes_of_writable]
    · rfl
    · intro k hk
      rw [State.frameBytes_length] at hk
      exact (s.writable_lowerST _).2 (frame k hk)
  have target : s.readValue .tri (s.vectorAddr n) = .ok (elementAt s .tri (handlerAddr s n)) :=
    State.readValue_eq_elementAt vector
  rw [State.trapEntry, if_pos (show s.enabled n = true from enabled), target]
  simp only [if_neg handler, written]

/-- An entry that is not delivered leaves the core Faulted. -/
theorem State.trapEntry_of_not_deliverable {s : State} {n : IntNo} (h : ¬ Deliverable s n) (ret : Addr) :
    s.trapEntry n ret = s.becomeFaulted := by
  unfold State.trapEntry
  split
  · next enabled =>
    split
    · next handler read =>
      split
      · rfl
      · next nonzero =>
        split
        · next t written =>
          rw [State.writeTris_eq] at written
          have frame := State.writable_of_writeBytes _ _ _ _ written
          rw [State.frameBytes_length] at frame
          have vector : AllReadable s (handlerAddr s n) 3 := by
            cases bytes : s.readBytes .read 3 (s.vectorAddr n) with
            | ok l => exact State.readable_of_readBytes _ _ _ _ _ bytes
            | denied _ _ | stopped _ | refused _ =>
              rw [State.readValue, show Size.tri.bytes = 3 from rfl, bytes] at read
              cases read
          have target := (State.readValue_eq_elementAt (z := .tri) vector).symm.trans read
          refine absurd ⟨enabled, vector, ?_, fun k hk => (s.writable_lowerST _).1 (frame k hk)⟩ h
          rwa [Access.ok.inj target]
        · rfl
    · rfl
  · rfl

/-- Settles O13: each way a delivery fails leads to the same state. -/
theorem undeliverableTrapFaults : Obligations.UndeliverableTrapFaults := fun _ _ ret h =>
  State.trapEntry_of_not_deliverable h ret

/-- The asynchronous numbers, as a mask and as a list. -/
theorem isAsync_eq : ∀ n : IntNo, isAsync n = decide (n ∈ asyncNumbers) := by decide

/-- The pending set in the handler, bit by bit. -/
theorem State.enterHandler_pending_getLsbD (s : State) (n : IntNo) (handler : Addr) (m : IntNo) :
    (s.enterHandler n handler).pending.getLsbD m.val =
      (s.pending.getLsbD m.val && !decide (m = n ∧ n ∈ asyncNumbers)) := by
  rw [State.enterHandler_pending, isAsync_eq]
  by_cases async : n ∈ asyncNumbers
  · have bit : (m.val = n.val) = (m = n) := propext Fin.ext_iff.symm
    simp [async, m.isLt, bit]
  · simp [async]

section
variable (s : State) (ret : Addr)

theorem State.framed_settings : (s.framed ret).settings = s.settings := by simp [State.framed]

theorem State.framed_stReg : (s.framed ret).stReg = s.stReg := by simp [State.stReg, State.framed_settings]

theorem State.framed_flagsReg : (s.framed ret).flagsReg = s.flagsReg := by simp [State.flagsReg, State.framed_settings]

theorem State.framed_pcReg : (s.framed ret).pcReg = s.pcReg := by simp [State.pcReg, State.framed_settings]

theorem State.framed_stackUp : (s.framed ret).stackUp = s.stackUp := by simp [State.stackUp, State.framed_settings]

/-- The registers are those with ST lowered. -/
theorem State.x_framed (q : RegNo) : (s.framed ret).x q = s.lowerST.x q := State.x_putBytes ..

theorem State.framed_flags : (s.framed ret).flags = s.flags := by
  rw [State.flags, State.x_framed, State.framed_flagsReg, State.x_lowerST, if_neg (by simp), State.x_flagsReg]

theorem State.framed_entryFlags : (s.framed ret).entryFlags = s.entryFlags := by
  rw [State.entryFlags, State.framed_flags, State.framed_settings, State.entryFlags]

/-- ST after a trap entry: moved by the frame size in the stack's direction. -/
theorem State.x_stReg_enterHandler (n : IntNo) (handler : Addr) :
    ((s.framed ret).enterHandler n handler).x s.stReg =
      if s.stackUp then s.x s.stReg + frameSize else s.x s.stReg - frameSize := by
  rw [State.x_enterHandler, State.framed_pcReg, State.framed_flagsReg, State.framed_stReg, State.framed_stackUp,
    if_neg s.stReg_ne_pcReg, if_neg s.stReg_ne_flagsReg, State.x_framed, State.x_lowerST]
  cases s.stackUp <;> simp

/-- Tri k of the frame that a trap entry writes. -/
theorem State.frame_lowerST_getElem {k : Nat} (hk : k < 33) :
    (s.lowerST.frameOf ret)[k]'(by rw [frame_len]; exact hk) =
      frameTri s (if s.stackUp then s.x s.stReg else s.x s.stReg - frameSize) ret k := by
  have st := s.stReg.isLt
  rw [frame_get _ _ _ hk, State.lowerST_pcReg, State.lowerST_flags, frameTri]
  by_cases isSt : k = s.stReg.val
  · have noPc : ¬ s.stReg.val = s.pcReg.val := fun e => s.stReg_ne_pcReg (Fin.ext e)
    rw [isSt, if_neg noPc, if_neg (by omega), if_pos rfl, Fin.ofNat_val_eq_self, State.x_lowerST]
    cases s.stackUp <;> simp
  · rw [if_neg isSt]
    refine ite_congr rfl (fun _ => rfl) fun _ => ite_congr rfl (fun _ => rfl) fun last => ?_
    rw [State.x_lowerST, if_neg]
    rintro ⟨e, -⟩
    exact isSt (by rw [← e, Fin.val_ofNat, Nat.mod_eq_of_lt (by omega)])

/-- The bytes of the frame in memory. -/
theorem State.byteAt_framed {k j : Nat} (hk : k < 33) (hj : j < 3) :
    (s.framed ret).mem.byteAt (s.entryBase + BitVec.ofNat 27 (3 * k + j)) =
      some (storedByte .tri (frameTri s (if s.stackUp then s.x s.stReg else s.x s.stReg - frameSize) ret k) j) := by
  have length := s.frameBytes_length ret
  rw [State.framed, State.byteAt_putBytes_at _ _ (by rw [length]; decide) (by rw [length]; omega),
    triBytes_getElem _ k j (by rw [frame_len]; exact hk) hj, Size.split_getElem, State.frame_lowerST_getElem s ret hk]

end

/-- Settles O12: the frame is written from the state with ST lowered, then the handler is entered. -/
theorem trapEntryDelivers : Obligations.TrapEntryDelivers := by
  intro s n ret deliverable t up st
  have entered : t = (s.framed ret).enterHandler n (elementAt s .tri (handlerAddr s n)) :=
    State.trapEntry_of_deliverable deliverable ret
  have length := s.frameBytes_length ret
  have fits : (triBytes (s.lowerST.frameOf ret)).length ≤ 2 ^ 27 := by rw [length]; decide
  refine ⟨rfl, ?_, ?_, ?_, ?_, fun q hst hpc hfl => ?_, fun k hk j hj => ?_, fun a ha => ?_, fun a => ?_, fun m => ?_,
    fun p => ?_, ?_, ?_⟩
  · rw [entered, State.enterHandler_pc]
  · rw [entered, State.enterHandler_runState]
  · rw [entered, State.flags, State.enterHandler_flagsReg, State.x_enterHandler, State.framed_pcReg, State.framed_flagsReg,
      if_neg s.flagsReg_ne_pcReg, if_pos rfl, State.framed_entryFlags]
    rfl
  · rw [entered, State.x_stReg_enterHandler]
    rfl
  · rw [entered, State.x_enterHandler, State.framed_pcReg, State.framed_flagsReg, State.framed_stReg, if_neg hpc, if_neg hfl,
      if_neg (by simp [hst]), State.x_framed, State.x_lowerST, if_neg (by simp [hst])]
  · rw [entered, State.enterHandler_mem, State.byteAt_framed s ret hk hj]
    rfl
  · rw [entered, State.enterHandler_mem, State.framed, State.byteAt_putBytes_outside _ _ _ fits (by rwa [length]),
      State.lowerST_mem]
  · rw [entered, State.enterHandler_stored, State.framed, State.has_putBytes _ _ _ _ fits, length, State.lowerST_stored]
  · rw [entered, State.enterHandler_pending_getLsbD, State.framed, State.putBytes_pending, State.lowerST_pending]
  · rw [entered, State.enterHandler_prot, State.framed, State.putBytes_prot, State.lowerST_prot]
  · rw [entered, State.enterHandler_settings, State.framed_settings]
  · rw [entered, State.enterHandler_arrivals, State.framed, State.putBytes_arrivals, State.lowerST_arrivals]

/-! ### The return undoes the entry -/

/-- Memory that holds the bytes of a Tri reads it back whole. -/
theorem elementAt_of_storedBytes {t : State} {a : Addr} {v : Word}
    (h : ∀ j < 3, t.mem.byteAt (a + BitVec.ofNat 27 j) = some (storedByte .tri v j)) : elementAt t .tri a = v := by
  have bytes : t.bytesAt a Size.tri.bytes = Size.tri.split v := by
    refine List.ext_getElem (by simp [State.bytesAt]) fun j hj hj' => ?_
    have inside : j < 3 := lt_of_lt_of_eq hj' (Size.split_length .tri v)
    rw [Size.split_getElem]
    simp [State.bytesAt, h j inside]
  have whole : v.toNat % 2 ^ (9 * Size.tri.bytes) = v.toNat := Nat.mod_eq_of_lt v.isLt
  rw [← Size.join_bytesAt, bytes, Size.join_split_eq_mod, whole, BitVec.ofNat_toNat, BitVec.setWidth_eq]

section
variable (s : State) (st ret : Word)

theorem frameTri_stReg : frameTri s st ret s.stReg.val = st := if_pos rfl

theorem frameTri_pcReg : frameTri s st ret s.pcReg.val = ret := by
  rw [frameTri, if_neg fun e => s.pcReg_ne_stReg (Fin.ext e), if_pos rfl]

theorem frameTri_flags : frameTri s st ret 32 = s.flags := by
  have hst := s.stReg.isLt
  have hpc := s.pcReg.isLt
  rw [frameTri, if_neg (by omega), if_neg (by omega), if_pos rfl]

theorem frameTri_x {q : RegNo} (hst : q ≠ s.stReg) (hpc : q ≠ s.pcReg) : frameTri s st ret q.val = s.x q := by
  rw [frameTri, if_neg fun e => hst (Fin.ext e), if_neg fun e => hpc (Fin.ext e), if_neg (by omega), Fin.ofNat_val_eq_self]

end

/-- Under the default `Perm` every page that allows writing allows reading. -/
theorem permAllows_default_read : ∀ v : Prot, permAllows .default v .write = true → permAllows .default v .read = true := by
  decide

/-- Settles O14: IR finds the entry base again, and each Tri of the frame is read as it was written. -/
theorem interruptReturnUndoesTrapEntry : Obligations.InterruptReturnUndoesTrapEntry := by
  intro s n ret deliverable pages
  obtain ⟨enabled, vector, handler, frame⟩ := deliverable
  obtain ⟨-, -, running, -, stMoved, -, bytes, -, -, -, protection, settings, -⟩ :=
    trapEntryDelivers s n ret ⟨enabled, vector, handler, frame⟩
  generalize s.trapEntry n ret = t at *
  have stReg : t.stReg = s.stReg := by rw [State.stReg, settings, State.stReg]
  have flagsReg : t.flagsReg = s.flagsReg := by rw [State.flagsReg, settings, State.flagsReg]
  have pcReg : t.pcReg = s.pcReg := by rw [State.pcReg, settings, State.pcReg]
  have base : t.returnBase = s.entryBase := by
    rw [State.returnBase, State.entryBase, State.stackUp, State.stackUp, settings, stReg, stMoved]
    cases s.settings.stackDirectionFlag
    · rfl
    · exact add_sub_cancel_right _ _
  have tri (k : Nat) (hk : k < 33) : t.returnTri k = frameTri s _ ret k :=
    elementAt_of_storedBytes fun j hj => by rw [base, addr_add, bytes k hk j hj]
  have readable : AllReadable t t.returnBase 99 := by
    intro i hi
    obtain ⟨plain, writable⟩ := frame i hi
    have allows (k : AccessKind) (a : Addr) : t.allows k a = s.allows k a := by
      rw [State.allows, State.allows, State.protAt, State.protAt, settings, protection]
    have allowed : s.allows .read (s.entryBase + BitVec.ofNat 27 i) = true := by
      rcases pages with perm | allowed
      · rw [State.allows, perm] at writable ⊢
        exact permAllows_default_read _ writable
      · exact allowed i hi
    have byte := bytes (i / 3) (by omega) (i % 3) (by omega)
    rw [Nat.div_add_mod] at byte
    rw [base]
    exact ⟨_, by rw [State.plain, settings]; exact plain, (allows _ _).trans allowed, State.stale_read .., byte⟩
  obtain ⟨u, runs, others, st, flags, pc, memory, protection', -, runState, settings', -⟩ := exec_ir_of_readable readable
  rw [stReg] at st others
  rw [flagsReg] at others
  rw [pcReg] at pc
  refine ⟨u, runs, pc.trans ((tri _ (by omega)).trans (frameTri_pcReg ..)), fun q hq => ?_, memory,
    fun p => (protection' p).trans (protection p), runState.trans running, settings'.trans settings⟩
  by_cases isSt : q = s.stReg
  · rw [isSt, st, tri _ (by omega), frameTri_stReg, State.stackUp, settings]
    cases s.settings.stackDirectionFlag
    · exact sub_add_cancel _ _
    · rfl
  · by_cases isFlags : q = s.flagsReg
    · have same : u.x s.flagsReg = u.flags := by
        rw [State.flags, State.flagsReg, State.flagsReg, settings'.trans settings]
      rw [isFlags, same, State.x_flagsReg]
      rw [flags, tri 32 (by omega), frameTri_flags]
    · exact (others q isSt isFlags).trans ((tri _ (by omega)).trans (frameTri_x _ _ _ isSt hq))

end Sys2Proof.Machine
end

section
/-! ## Page protection requests: the pages that SMP sets, the word that RMP packs, and what `MPError` decides outside the
clean domain. -/

namespace Sys2Proof.Machine

open Sys2Proof.Machine.Claim

/-! ### The word that RMP packs (49_system.md R408) -/

/-- The two bits of a protection value, at their places. -/
theorem placeProt_getLsbD (places : Fin 27 × Fin 27) (v : Prot) {j : Nat} (hj : j < 27) :
    (placeProt places v).getLsbD j = true ↔
      places.1.val = j ∧ v.getLsbD 1 = true ∨ places.2.val = j ∧ v.getLsbD 0 = true := by
  unfold placeProt
  cases v.getLsbD 1 <;> cases v.getLsbD 0 <;> simp [hj, eq_comm (a := j)]

/-- Each bit of the packed word comes from the places of one of the pages. -/
theorem packPages_getLsbD (p : RMPPack) (t : ProtTable) (page n k : Nat) {j : Nat} (hj : j < 27) :
    (packPages p t page n k).getLsbD j = true ↔ ∃ i < k,
      (packPlaces p n i).1.val = j ∧ (t.ofPage (page + i)).getLsbD 1 = true ∨
        (packPlaces p n i).2.val = j ∧ (t.ofPage (page + i)).getLsbD 0 = true := by
  induction k with
  | zero => simp [packPages]
  | succ k ih =>
    rw [packPages, BitVec.getLsbD_or, Bool.or_eq_true, ih, placeProt_getLsbD _ _ hj, Nat.exists_lt_succ_right]

/-- The same for at most 13 pages, the columns of `RMPPack`. -/
theorem packPages_getLsbD_fin (p : RMPPack) (t : ProtTable) (page : Nat) {n : Nat} (hn : n ≤ 13) {j : Nat} (hj : j < 27) :
    (packPages p t page n n).getLsbD j = true ↔ ∃ k : Fin 13, k.val < n ∧
      (p[(Fin.ofNat 13 (n - 1)).val][k.val].1.val = j ∧ (t.ofPage (page + k.val)).getLsbD 1 = true ∨
        p[(Fin.ofNat 13 (n - 1)).val][k.val].2.val = j ∧ (t.ofPage (page + k.val)).getLsbD 0 = true) := by
  have column (k : Fin 13) : packPlaces p n k.val = p[(Fin.ofNat 13 (n - 1)).val][k.val] := by
    simp only [packPlaces, Fin.ofNat_val_eq_self]
  rw [packPages_getLsbD _ _ _ _ _ hj]
  constructor
  · rintro ⟨i, hi, places⟩
    exact ⟨⟨i, by omega⟩, hi, by rwa [← column ⟨i, by omega⟩]⟩
  · rintro ⟨k, hk, places⟩
    exact ⟨k.val, hk, by rwa [column k]⟩

/-- By default page k stands in bits 2k + 1 and 2k, however many are read. -/
theorem rmpPack_default_getElem (row k : Fin 13) :
    RMPPack.default[row.val][k.val].1.val = 2 * k.val + 1 ∧ RMPPack.default[row.val][k.val].2.val = 2 * k.val := by
  simp [RMPPack.default]

/-- The packed word under the default packing, bit by bit. -/
theorem packPages_default_getLsbD (t : ProtTable) (page : Nat) {n : Nat} (hn : n ≤ 13) {j : Nat} (hj : j < 27) :
    (packPages .default t page n n).getLsbD j = true ↔
      j / 2 < n ∧ (t.ofPage (page + j / 2)).getLsbD (j % 2) = true := by
  rw [packPages_getLsbD_fin _ _ _ hn hj]
  constructor
  · rintro ⟨k, hk, places⟩
    obtain ⟨high, low⟩ := rmpPack_default_getElem (Fin.ofNat 13 (n - 1)) k
    rw [high, low] at places
    rcases places with ⟨place, bit⟩ | ⟨place, bit⟩
    · rw [show j / 2 = k.val by omega, show j % 2 = 1 by omega]
      exact ⟨hk, bit⟩
    · rw [show j / 2 = k.val by omega, show j % 2 = 0 by omega]
      exact ⟨hk, bit⟩
  · rintro ⟨hk, bit⟩
    obtain ⟨high, low⟩ := rmpPack_default_getElem (Fin.ofNat 13 (n - 1)) ⟨j / 2, by omega⟩
    refine ⟨⟨j / 2, by omega⟩, hk, ?_⟩
    rw [high, low]
    rcases Nat.mod_two_eq_zero_or_one j with even | odd
    · exact .inr ⟨by simp only; omega, even ▸ bit⟩
    · exact .inl ⟨by simp only; omega, odd ▸ bit⟩

/-- By default the word shows each page in two bits, and 0 above. -/
theorem packPages_default (t : ProtTable) (page : Nat) {n : Nat} (hn : n ≤ 13) :
    (∀ k < 13, (packPages .default t page n n).extractLsb' (2 * k) 2 = if k < n then t.ofPage (page + k) else 0#2) ∧
      (packPages .default t page n n).getLsbD 26 = false := by
  refine ⟨fun k hk => BitVec.eq_of_getLsbD_eq fun i hi => ?_, ?_⟩
  · have bit := packPages_default_getLsbD t page hn (j := 2 * k + i) (by omega)
    rw [show (2 * k + i) / 2 = k by omega, show (2 * k + i) % 2 = i by omega] at bit
    rw [BitVec.getLsbD_extractLsb', decide_eq_true hi, Bool.true_and, Bool.eq_iff_iff, bit]
    split <;> simp [*]
  · rw [← Bool.not_eq_true, packPages_default_getLsbD t page hn (by decide)]
    omega

/-! ### The pages that SMP sets (49_system.md R407) -/

/-- One page at a time: the pages of a list, and no other. -/
theorem ofPage_foldl_withRange (v : Prot) (l : List Nat) (t : ProtTable) (k : Nat) :
    (l.foldl (fun t p => t.withRange (p % pageCount) 1 v) t).ofPage k =
      if ∃ q ∈ l, q % pageCount = k then v else t.ofPage k := by
  induction l generalizing t with
  | nil => simp
  | cons p l ih =>
    rw [List.foldl_cons, ih, ProtTable.ofPage_withRange]
    by_cases later : ∃ q ∈ l, q % pageCount = k
    · rw [if_pos later, if_pos (by simpa using Or.inr later)]
    · rw [if_neg later]
      refine if_congr ?_ rfl rfl
      simp only [List.mem_cons, exists_eq_or_imp, later, or_false]
      omega

theorem pagesValid_iff (a n : Word) : pagesValid a n = true ↔ CleanRequest a n := decide_eq_true_iff

/-- The state with another protection table, Z set and the program counter moved on: all else is kept. -/
theorem protection_written (s : State) (table : ProtTable) (k : Nat) :
    let t := ((({ s with prot := table } : State).updateFlags (.zero true)).drew k).advance 3
    t.prot = table ∧ FlagsAre s.settings.flagBits s.flags t.flags (.val true) .kept .kept .kept ∧
      (∀ q, q ≠ s.flagsReg → q ≠ s.pcReg → t.x q = s.x q) ∧ t.pc = s.pc + 3#27 ∧ SameMemory s t ∧ SameMachine s t := by
  refine ⟨rfl, ?_, fun q hf hp => State.x_writeBack { s with prot := table } _ k 3 q hf hp, ?_, ⟨fun _ => rfl, fun _ => rfl⟩,
    rfl, rfl, rfl, rfl⟩
  · rw [State.advance_flags, State.drew_flags, State.updateFlags_flags]
    exact FlagUpdate.does_zero _ true _
  · rw [State.advance_pc, State.drew_pc, State.updateFlags_pc]
    rfl

/-- A request outside the clean domain that fails: its reason goes to rA and Z is cleared. -/
theorem State.setProtection_fails {rA rB : RegNo} {s : State} (unclean : ¬ CleanRequest (s.x rA) (s.x rB)) {reason : Word}
    (fails : s.mpReason .set rA rB = some reason) (v : Prot) :
    s.setProtection rA rB v = s.writeWord rA 3 reason (.zero false) 1 := by
  have invalid : ¬ pagesValid (s.x rA) (s.x rB) = true := fun h => unclean ((pagesValid_iff ..).1 h)
  rw [State.setProtection, if_neg invalid, fails, State.writeWord, State.setOutside, fails]
  simp

/-- A request outside the clean domain that does not fail sets the pages that `MPError` says. -/
theorem State.setProtection_outside {rA rB : RegNo} {s : State} (unclean : ¬ CleanRequest (s.x rA) (s.x rB))
    (succeeds : s.mpReason .set rA rB = none) (v : Prot) :
    s.setProtection rA rB v = .next (((({ s with
      prot := (Config.mpPages s.draws (s.x rA) (s.x rB)).foldl (fun t p => t.withRange (p % pageCount) 1 v) s.prot } :
        State).updateFlags (.zero true)).drew 1).advance 3) := by
  have invalid : ¬ pagesValid (s.x rA) (s.x rB) = true := fun h => unclean ((pagesValid_iff ..).1 h)
  rw [State.setProtection, if_neg invalid, succeeds, State.setOutside, succeeds]
  simp

/-- A request that RMP cannot answer with at most 13 pages of the clean domain. -/
theorem State.readProtection_outside {rA rB : RegNo} {s : State}
    (outside : ¬ CleanRequest (s.x rA) (s.x rB) ∨ 13 < (s.x rB).toNat) :
    s.readProtection rA rB = s.writeWord rA 3 (s.readOutside rA rB).1 (.zero (s.readOutside rA rB).2) 1 := by
  have invalid : ¬ (pagesValid (s.x rA) (s.x rB) && decide ((s.x rB).toNat ≤ maxReadPages)) = true := by
    rw [Bool.and_eq_true, pagesValid_iff, decide_eq_true_iff]
    rintro ⟨clean, few⟩
    exact outside.elim (fun unclean => unclean clean) (fun many => absurd few (not_le.2 many))
  exact if_neg invalid

/-- A request of at most 13 pages in the clean domain. -/
theorem State.readProtection_clean {rA rB : RegNo} {s : State} (clean : CleanRequest (s.x rA) (s.x rB))
    (few : (s.x rB).toNat ≤ 13) :
    s.readProtection rA rB = s.writeWord rA 3
      (packPages s.settings.rmpPack s.prot (pageOf (s.x rA)) (s.x rB).toNat (s.x rB).toNat) (.zero true) 0 :=
  if_pos (Bool.and_eq_true_iff.2 ⟨(pagesValid_iff ..).2 clean, decide_eq_true few⟩)

/-- Settles O59: a clean request is answered from the table; the rest is what `MPError` says. -/
theorem protectionRequests : Obligations.ProtectionRequests := by
  intro rA rB v s a n page setPages
  have sets {i : Instr} (table : ProtTable) (k : Nat) {p : Nat → Prop} [DecidablePred p]
      (pages : ∀ m, table.ofPage m = if p m then v else s.prot.ofPage m)
      (runs : exec i s = .next (((({ s with prot := table } : State).updateFlags (.zero true)).drew k).advance 3)) :
      ∃ t, exec i s = .next t ∧ setPages t p :=
    have written := protection_written s table k
    ⟨_, runs, fun m => ⟨fun h => (pages m).trans (if_pos h), fun h => (pages m).trans (if_neg h)⟩, written.2⟩
  refine ⟨fun clean => ⟨?_, fun few dest => ?_⟩, fun unclean => ?_, fun dest outside => ?_, fun isPc => ?_⟩
  · refine sets _ 0 (s.prot.ofPage_withRange page n · v) ?_
    exact if_pos ((pagesValid_iff ..).2 clean)
  · obtain ⟨t, runs, wrote⟩ := State.writeWord_wrote (FlagUpdate.does_zero s.settings.flagBits true) dest 3
      (packPages s.settings.rmpPack s.prot page n n) 0
    refine ⟨t, _, (State.readProtection_clean clean few).trans runs, wrote,
      fun j hj => packPages_getLsbD_fin _ _ _ few hj, fun packing => ?_⟩
    rw [packing]
    exact packPages_default _ _ few
  · cases request : Config.mpError s.draws .set a (s.x rB) with
    | some reason =>
      have runs : exec (.smp rA rB v) s = _ := State.setProtection_fails unclean request v
      dsimp only
      split
      · next isPc => exact runs.trans (if_pos isPc)
      · next dest =>
        rw [runs]
        exact State.writeWord_wrote (FlagUpdate.does_zero _ false) dest 3 reason 1
    | none =>
      classical
      exact sets _ 1 (ofPage_foldl_withRange v _ s.prot) (State.setProtection_outside unclean request v)
  · have runs : exec (.rmp rA rB) s = _ := State.readProtection_outside outside
    cases request : Config.mpError s.draws .read a (s.x rB) with
    | some reason =>
      have answer : s.readOutside rA rB = (reason, false) := by simp only [State.readOutside, State.mpReason, a, request]
      rw [runs, answer]
      exact State.writeWord_wrote (FlagUpdate.does_zero _ false) dest 3 reason 1
    | none =>
      have answer : s.readOutside rA rB = (Config.mpRead s.draws a (s.x rB), true) := by
        simp only [State.readOutside, State.mpReason, a, request]
      rw [runs, answer]
      exact State.writeWord_wrote (FlagUpdate.does_zero _ true) dest 3 _ 1
  · subst isPc
    by_cases answered : CleanRequest (s.x s.pcReg) (s.x rB) ∧ (s.x rB).toNat ≤ 13
    · exact (State.readProtection_clean answered.1 answered.2).trans (s.writeWord_pcReg ..)
    · exact (State.readProtection_outside (by rwa [not_and_or, not_le] at answered)).trans (s.writeWord_pcReg ..)

end Sys2Proof.Machine
end
